-- ==== Sys2Proof/Word.lean ====
section
/-! DEFINITION. The unsigned value types of the spec (00_scope.md R14): `u8`, `u16`, `u32`, `u64`.
Every quantity of this block is unsigned; there is no signed arithmetic and no sign extension. -/

namespace Sys2Proof

/-- `u8`: a stream byte, a table index (R14). -/
abbrev Byte := BitVec 8

/-- `u16`: a 16-bit header field or register (R14). -/
abbrev Half := BitVec 16

/-- `u32`: an accumulator, a table entry, a command word, a result register (R14). -/
abbrev Word := BitVec 32

/-- `u64`: the total-bytes counter (R10 `TOTW`, R14). -/
abbrev Dword := BitVec 64

end Sys2Proof
end

