-- ==== Sys2Proof/Config.lean ====
section
/-! DEFINITION. What an implementation fixes (00_scope.md R8 to R10), and the free values: constants
with no body, whose values nothing in Lean can prove anything about. -/

namespace Sys2Proof.Config

/-- `POLY`: the CRC-32 generator polynomial, non-reflected (R8). -/
def poly : Word := 0x04C11DB7#32

/-- `INIT`: the initial value of every accumulator (R8, R124). -/
def init : Word := 0xFFFFFFFF#32

/-- `XOROUT`: XORed into an accumulator at finalization (R8, R125). -/
def xorOut : Word := 0xFFFFFFFF#32

/-- `FMT_SIZE`: the only accepted size of the `fmt ` chunk body (R8, R145). -/
def fmtSize : Word := 16#32

/-- `PCM_TAG`: the only accepted audio format tag (R8, R147). -/
def pcmTag : Half := 1#16

/-- The tag of step 1, ASCII "RIFF" as a little-endian `u32` (R98). -/
def riffTag : Word := 0x46464952#32

/-- The tag of step 3, ASCII "WAVE" (R98). -/
def waveTag : Word := 0x45564157#32

/-- The tag of step 4, ASCII "fmt " with a space, 0x20, as its fourth character (R98). -/
def fmtTag : Word := 0x20746D66#32

/-- The tag of step 7, ASCII "data" (R98). -/
def dataTag : Word := 0x61746164#32

/-- The two parameters that R9 lets a model take as arguments: `NACC`, the accumulators in the
accumulator file, and `BUF_BLOCKS`, the sample blocks per read buffer. -/
structure Params where
  /-- `NACC` (R8, R9). -/
  nacc : Nat
  /-- `BUF_BLOCKS` (R8, R9). -/
  bufBlocks : Nat
  deriving DecidableEq, Repr

/-- The normative values of R8: `NACC` = 10, `BUF_BLOCKS` = 4096. -/
def Params.standard : Params := { nacc := 10, bufBlocks := 4096 }

/-- The constraints of R9, `BUF_BLOCKS >= 1` and `3 <= NACC <= 16`, and the bound under which
`BUFSZ = BUF_BLOCKS * BA` fits the `u32` that R20 gives it (DEDUCED, log 10): `65537 * 65535 = 2^32 - 1`. -/
abbrev Params.Wf (p : Params) : Prop :=
  3 ≤ p.nacc ∧ p.nacc ≤ 16 ∧ 1 ≤ p.bufBlocks ∧ p.bufBlocks ≤ 65537

/-- FREE VALUE (log 5): what the input `TIME_MS` shows at the `n`-th sampling moment for which the
host has fixed no value (R49, R276: "a free input"). -/
opaque timeMs : Nat → Word

/-- FREE VALUE (log 8): the contents of `TABLE` while `TVALID = 0` (R30, R50, U1: `any value`). -/
opaque tableUnbuilt : Nat → Byte → Word

end Sys2Proof.Config
end

