-- ==== Sys2Proof/Syntax.lean ====
section
/-! DEFINITION. The syntax of the block's operations: one constructor of `Instr` for each of the 28 rows
of spec/opcode_table.json (30_encoding.md R107): 6 `CMD` rows (R96), 8 `HDR` rows (R97), 14 `UOP` rows. -/

namespace Sys2Proof

/-- The twelve error kinds of 60_exceptions.md R251, in the order of their codes 1 to 12. -/
inductive ErrKind where
  | notRiff
  | notWave
  | missingFmtChunk
  | unsupportedFmtChunkSize
  | inconsistentFormat
  | notPcm
  | missingDataChunk
  | truncatedStream
  | dataNotAligned
  | corruptedFile
  | invalidChannelSelector
  | invalidCommand
  deriving DecidableEq, Repr

/-- The operations of the block. A `HDR` operation has no operand: its bytes are the next bytes of the
stream (R97). A `UOP` has no bit encoding (R90, R107); the operands below are those its table row names. -/
inductive Instr where
  /-- `TBUILD`, the host command (R223). -/
  | tbuild
  /-- `RUN.BLK.ALL` (R222). `CHSEL` is not examined, but latched (R101). -/
  | runBlkAll (chsel : Half)
  /-- `RUN.CH.ALL` (R222). `CHSEL` is examined (R224, R148). -/
  | runChAll (chsel : Half)
  /-- `RUN.BLK.NN` (R222). `CHSEL` is not examined, but latched (R101). -/
  | runBlkNn (chsel : Half)
  /-- `RUN.CH.NN` (R222). `CHSEL` is examined (R224, R148). -/
  | runChNn (chsel : Half)
  /-- `RUN.RPT` (R222). `FILT`, `GRAN` and `CHSEL` are not examined, but latched and echoed (R101). -/
  | runRpt (filt gran : Bool) (chsel : Half)
  /-- Header step 1, the RIFF tag (R141). -/
  | h1
  /-- Header step 2, the RIFF chunk size (R142). -/
  | h2
  /-- Header step 3, the WAVE tag (R143). -/
  | h3
  /-- Header step 4, the fmt tag (R144). -/
  | h4
  /-- Header step 5, the fmt chunk size (R145). -/
  | h5
  /-- Header step 6, the format descriptor: read, validation, selector check (R146 to R148). -/
  | h6
  /-- Header step 7, the data tag (R149). -/
  | h7
  /-- Header step 8, the data size (R150). -/
  | h8
  /-- `REFLECT(v, w)` (R120). -/
  | reflect (v : Word) (w : Nat)
  /-- `TENTRY(b)` (R121). -/
  | tentry (b : Byte)
  /-- `TBUILD.LOOP`, the table-writing loop (R122). -/
  | tbuildLoop
  /-- `CRCUPD(s, b)` (R123). -/
  | crcupd (st : Word) (b : Byte)
  /-- `CRCFIN(s)` (R125). -/
  | crcfin (st : Word)
  /-- `RDBUF`, known-size form (R173). -/
  | rdbufKnown
  /-- `RDBUF`, unknown-size form (R174). -/
  | rdbufUnknown
  /-- `ACC.BLK.ALL` (R196). -/
  | accBlkAll
  /-- `ACC.BLK.NN` (R197). -/
  | accBlkNn
  /-- `ACC.CH.ALL` (R198). -/
  | accChAll
  /-- `ACC.CH.NN` (R199). -/
  | accChNn
  /-- `ACC.RPT` (R200). -/
  | accRpt
  /-- `COMMIT` (R230). -/
  | commit
  /-- `RAISE` (R264): `raise K(step, sub, exp, found)`. -/
  | raise (kind : ErrKind) (step sub expected found : Nat)
  deriving DecidableEq, Repr

/-- The three formats of R90. -/
inductive Format where
  | cmd
  | hdr
  | uop
  deriving DecidableEq, Repr

/-- The format of each table row (R107: 6 `CMD`, 8 `HDR`, 14 `UOP`). -/
def Instr.format : Instr → Format
  | .tbuild => .cmd
  | .runBlkAll _ => .cmd
  | .runChAll _ => .cmd
  | .runBlkNn _ => .cmd
  | .runChNn _ => .cmd
  | .runRpt _ _ _ => .cmd
  | .h1 => .hdr
  | .h2 => .hdr
  | .h3 => .hdr
  | .h4 => .hdr
  | .h5 => .hdr
  | .h6 => .hdr
  | .h7 => .hdr
  | .h8 => .hdr
  | .reflect _ _ => .uop
  | .tentry _ => .uop
  | .tbuildLoop => .uop
  | .crcupd _ _ => .uop
  | .crcfin _ => .uop
  | .rdbufKnown => .uop
  | .rdbufUnknown => .uop
  | .accBlkAll => .uop
  | .accBlkNn => .uop
  | .accChAll => .uop
  | .accChNn => .uop
  | .accRpt => .uop
  | .commit => .uop
  | .raise _ _ _ _ _ => .uop

end Sys2Proof
end

