-- ==== Sys2Proof/Machine/State.lean ====
section
/-! DEFINITION. The state of the machine as plain data: every piece of 10_state.md R20, the inputs of the
four ports (R49, R220, R236, R237, R290), which the host owns and a step reads, and four fields of the
model's own (`runPending`, `primed`, `uopOut`, `draws`), marked as such. -/

namespace Sys2Proof.Machine

/-- The six phases of the sequencer (R24). -/
inductive Phase where
  | idle
  | tbuild
  | header
  | data
  | done
  | err
  deriving DecidableEq, Repr

/-- The mode latch `GRAN`, `FILT`, `REPORT`, `SEL[0..15]` (R21). -/
structure Mode where
  /-- 0 block, 1 per-channel. -/
  gran : Bool
  /-- 0 all samples, 1 exclude null samples. -/
  filt : Bool
  /-- Report mode. -/
  report : Bool
  /-- Bit `c` selects channel `c`. -/
  sel : Half
  deriving DecidableEq, Repr

/-- The format descriptor (R22). -/
structure Descriptor where
  /-- `TAG`, `audio_format_tag`. -/
  tag : Half
  /-- `NCH`, `channel_count`. -/
  nch : Half
  /-- `RATE`, `sample_rate`. -/
  rate : Word
  /-- `BRATE`, `byte_rate`. -/
  brate : Word
  /-- `BA`, `block_align`. -/
  ba : Half
  /-- `BITS`, `bits_per_sample`. -/
  bits : Half
  deriving DecidableEq, Repr

/-- The data-phase registers (R26). -/
structure Counters where
  /-- `DSIZE`, the declared data size; 0 means unknown. -/
  dsize : Word
  /-- `REM`, the declared bytes not yet read. -/
  rem : Word
  /-- `REQ`, the requested read length. -/
  req : Word
  /-- `GOT`, the bytes the last read returned. -/
  got : Word
  /-- `TOT`, the total bytes processed. -/
  tot : Dword
  /-- `LAST`, set when an unknown-size read came back short. -/
  last : Bool
  deriving DecidableEq, Repr

/-- The stored result registers (R36). `STATUS` is computed from `PHASE`, `TVALID`, `ERRKIND` and the
mode tag (Machine/Flags.lean), so that it is stored once; every other register is a word of its own. -/
structure Results where
  /-- `MREPORT`, `MFILT`, `MGRAN`: `STATUS[18:16]` (R37). -/
  modeTag : BitVec 3
  /-- `ERRKIND` (R38). -/
  errKind : Word
  /-- `ERRSTEP` (R39). -/
  errStep : Word
  /-- `ERREXP` (R40). -/
  errExp : Word
  /-- `ERRFOUND` (R41). -/
  errFound : Word
  /-- `VALID` (R42). -/
  valid : Word
  /-- `FMT_TAG` (R43). -/
  fmtTag : Word
  /-- `FMT_NCH` (R43). -/
  fmtNch : Word
  /-- `FMT_RATE` (R43). -/
  fmtRate : Word
  /-- `FMT_BYTERATE` (R43). -/
  fmtByteRate : Word
  /-- `FMT_ALIGN` (R43). -/
  fmtAlign : Word
  /-- `FMT_BITS` (R43). -/
  fmtBits : Word
  /-- `TOTAL_LO` (R44). -/
  totalLo : Word
  /-- `TOTAL_HI` (R44). -/
  totalHi : Word
  /-- `ELAPSED_MS` (R45). -/
  elapsedMs : Word
  /-- `CRC[0 .. NACC-1]` (R46). -/
  crc : List Word
  deriving DecidableEq, Repr

/-- What the host drives onto the ports (R49: "inputs ... of the step relation"). A step consumes from it;
the host's own moves are in Machine/Ports.lean. -/
structure Ports where
  /-- The reset input `rst` (R290). -/
  rst : Bool
  /-- The command port (R220): `some w` is `cmd_valid = 1` with `cmd_word = w`. -/
  cmd : Option Word
  /-- The stream bytes the host is prepared to deliver, next byte first (R236). -/
  inBytes : List Byte
  /-- Whether the host asserts `in_eos` after them (R236). -/
  inEnd : Bool
  /-- What `TIME_MS` shows at the coming sampling moments, as far as the host has fixed it (log 5). -/
  timeIn : List Word
  deriving DecidableEq, Repr

/-- A byte memory: the listed cells; an unlisted address reads as `Memory.unlisted`. -/
abbrev Memory := List Host.Cell

/-- The state of the machine. -/
structure State where
  /-- `NACC` and `BUF_BLOCKS`, taken as arguments (R9, log 10); no step writes them. -/
  params : Config.Params
  /-- `PHASE` (R24). -/
  phase : Phase
  /-- `STEP` (R24). -/
  step : Fin 10
  /-- The mode latch (R21). -/
  mode : Mode
  /-- The format descriptor (R22). -/
  fmt : Descriptor
  /-- `BPS`, bytes per sample (R23). -/
  bps : Half
  /-- `BUFSZ`, the size of the read buffer (R23). -/
  bufsz : Word
  /-- `POS`, the bytes of the current stream consumed (R25). -/
  pos : Nat
  /-- The data-phase registers (R26). -/
  cnt : Counters
  /-- `ACC[0 .. NACC-1]`, the accumulator file (R28). -/
  acc : List Word
  /-- `TABLE[0..255]` (R30). -/
  table : List Word
  /-- `BUF` (R31). -/
  buf : Memory
  /-- `TVALID` (R32). -/
  tvalid : Bool
  /-- `EOSF` (R33). -/
  eosf : Bool
  /-- `T0` (R34). -/
  t0 : Word
  /-- The result registers (R36). -/
  res : Results
  /-- The ports' inputs. -/
  ports : Ports
  /-- The MODEL's own (log 3): a `RUN` command waits behind the implicit table build of R225. -/
  runPending : Bool
  /-- The MODEL's own (log 2): the start of the data phase, R172, has been performed in this pass. -/
  primed : Bool
  /-- The MODEL's own (log 9): the result of the value operation (`REFLECT`, `TENTRY`, `CRCUPD`,
  `CRCFIN`) last performed by itself. -/
  uopOut : Word
  /-- The MODEL's own (log 5, log 8): the counter the free values are applied to. -/
  draws : Nat
  deriving DecidableEq, Repr

/-- Why the machine stops. No state that a run from reset reaches meets one (Safety.lean). -/
inductive Fault where
  /-- Raised by the sequencer in `PHASE = HEADER` with a `STEP` outside 1..8, or in `PHASE = DATA` with a
  `STEP` other than 9: R24 gives such a pair no operation. Safe. -/
  | sequencerLost
  /-- Raised by an accumulation operation whose samples do not lie inside `BUF[0 .. BUFSZ-1]`: the spec
  says that no byte of `BUF` exists there (R31, R60). Safe. -/
  | bufferOverrun
  /-- Raised where a rule divides by `BA` and `BA = 0`: R14 gives `div` and `mod` a nonzero divisor only.
  Safe. -/
  | zeroBlockAlign
  deriving DecidableEq, Repr

/-- Why there is no meaning. -/
inductive Refusal where
  /-- Raised by `exec` for an instruction that has no meaning yet. Safe. -/
  | notModelled (mnemonic : String)
  /-- Raised by a result read at an address above `0xFC` or not a multiple of 4 (R47, U13: `refuse`).
  Safe. -/
  | badReadAddress
  /-- Raised by a host move that presents a stream byte together with the end, or after it (R236, U15:
  `refuse`, a host error). Safe. -/
  | streamPortConflict
  /-- Raised by a host move that changes `cmd_word` while `cmd_valid = 1` and the word is not yet accepted
  (R220, U16: `refuse`, a host error). Safe. -/
  | commandWordChanged
  deriving DecidableEq, Repr

/-- Every result register 0 (R50, R228), with `NACC` registers `CRC[i]`. -/
def Results.cleared (nacc : Nat) : Results where
  modeTag := 0#3
  errKind := 0#32
  errStep := 0#32
  errExp := 0#32
  errFound := 0#32
  valid := 0#32
  fmtTag := 0#32
  fmtNch := 0#32
  fmtRate := 0#32
  fmtByteRate := 0#32
  fmtAlign := 0#32
  fmtBits := 0#32
  totalLo := 0#32
  totalHi := 0#32
  elapsedMs := 0#32
  crc := List.replicate nacc 0#32

/-- Ports on which the host offers nothing. -/
def Ports.quiet : Ports where
  rst := false
  cmd := none
  inBytes := []
  inEnd := false
  timeIn := []

/-- The state after reset (R50), for given parameters, port inputs and counter of free values. `PHASE`,
the mode latch, `POS`, `TVALID`, `EOSF` and every result register have the values R50 states; every other
register is unspecified there and holds 0, DESIGN CHOICE (log 6). -/
def State.resetWith (params : Config.Params) (ports : Ports) (draws : Nat) : State where
  params := params
  phase := .idle
  step := 0
  mode := { gran := false, filt := false, report := false, sel := 0#16 }
  fmt := { tag := 0#16, nch := 0#16, rate := 0#32, brate := 0#32, ba := 0#16, bits := 0#16 }
  bps := 0#16
  bufsz := 0#32
  pos := 0
  cnt := { dsize := 0#32, rem := 0#32, req := 0#32, got := 0#32, tot := 0#64, last := false }
  acc := List.replicate params.nacc 0#32
  table := List.replicate 256 0#32
  buf := []
  tvalid := false
  eosf := false
  t0 := 0#32
  res := Results.cleared params.nacc
  ports := ports
  runPending := false
  primed := false
  uopOut := 0#32
  draws := draws

/-- The machine right after reset, with the standard parameters and quiet ports. -/
def State.reset : State := State.resetWith Config.Params.standard Ports.quiet 0

end Sys2Proof.Machine
end

