-- ==== Sys2Proof/Machine/Flags.lean ====
section
/-! DEFINITION. The flags (R35) and the codes: `STATUS` and its fields (R37), the numbers of the error
kinds (R251), the outcome classes (R268), the phases in which a command is accepted (R221). No operation
sets a flag as a side effect of arithmetic (R35). -/

namespace Sys2Proof.Machine

/-- The code of an error kind (R251). -/
def errCode : ErrKind → Nat
  | .notRiff => 1
  | .notWave => 2
  | .missingFmtChunk => 3
  | .unsupportedFmtChunkSize => 4
  | .inconsistentFormat => 5
  | .notPcm => 6
  | .missingDataChunk => 7
  | .truncatedStream => 8
  | .dataNotAligned => 9
  | .corruptedFile => 10
  | .invalidChannelSelector => 11
  | .invalidCommand => 12

/-- The outcome class of a code (R268): 2 for codes 1 to 10, 3 for codes 11 and 12; 0 for no error. -/
def classOfCode (code : Nat) : Nat :=
  if code = 0 then 0 else if code ≤ 10 then 2 else if code ≤ 12 then 3 else 0

/-- The content of `ERRSTEP`: the step in bits 7:0, the sub-cause in bits 11:8 (R39, R264). -/
def errStepWord (step sub : Nat) : Word := BitVec.ofNat 32 (step + 256 * sub)

/-- `BUSY`: `PHASE` is `TBUILD`, `HEADER` or `DATA` (R37). -/
def Phase.busy : Phase → Bool
  | .idle => false
  | .tbuild => true
  | .header => true
  | .data => true
  | .done => false
  | .err => false

/-- `OUTCOME` (R37): 1 while `DONE`, the class of `ERRKIND` while `ERR`, else 0. -/
def State.outcome (s : State) : Nat :=
  match s.phase with
  | .idle => 0
  | .tbuild => 0
  | .header => 0
  | .data => 0
  | .done => 1
  | .err => classOfCode s.res.errKind.toNat

/-- `STATUS` (R37), reserved bits 0: `[18:16]` mode tag, `[9:8]` `OUTCOME`, `[3]` `TVALID`, `[2]` `ERR`,
`[1]` `DONE`, `[0]` `BUSY`. -/
def State.status (s : State) : Word :=
  0#13 ++ s.res.modeTag ++ 0#6 ++ BitVec.ofNat 2 s.outcome ++ 0#4 ++ BitVec.ofBool s.tvalid
    ++ BitVec.ofBool (s.phase == .err) ++ BitVec.ofBool (s.phase == .done) ++ BitVec.ofBool s.phase.busy

/-- The mode tag of three mode bits: `MREPORT`, `MFILT`, `MGRAN` (R37). -/
def modeTagOf (report filt gran : Bool) : BitVec 3 :=
  BitVec.ofBool report ++ BitVec.ofBool filt ++ BitVec.ofBool gran

/-- Whether a command can be accepted, as far as `PHASE` decides it (R221). -/
def Phase.ready : Phase → Bool
  | .idle => true
  | .tbuild => false
  | .header => false
  | .data => false
  | .done => true
  | .err => true

end Sys2Proof.Machine
end

