-- ==== Sys2Proof/Machine/Operands.lean ====
section
/-! DEFINITION. The operand forms: little-endian fields (R15, R99), the selected channels of `CHSEL` and
`SEL` (R92, R148, R224), the sample of a block (R190) and the null test (R191). -/

namespace Sys2Proof.Machine

/-- Byte `k` of a list, 0 past its end; every use below is inside the list. -/
def byteAt (bs : List Byte) (k : Nat) : Byte := bs.getD k 0#8

/-- `LE16` of the bytes at `k`, `k + 1` (R15): the lower offset is the less significant byte. -/
def le16 (bs : List Byte) (k : Nat) : Half := byteAt bs (k + 1) ++ byteAt bs k

/-- `LE32` of the bytes at `k` to `k + 3` (R15). -/
def le32 (bs : List Byte) (k : Nat) : Word :=
  byteAt bs (k + 3) ++ byteAt bs (k + 2) ++ byteAt bs (k + 1) ++ byteAt bs k

/-- The four stream bytes of a little-endian `u32` (R98, R66). -/
def le32Bytes (w : Word) : List Byte :=
  [w.extractLsb' 0 8, w.extractLsb' 8 8, w.extractLsb' 16 8, w.extractLsb' 24 8]

/-- The sixteen stream bytes of a 128-bit number, lowest first. -/
def le128Bytes (v : BitVec 128) : List Byte :=
  (List.range 16).map fun k => v.extractLsb' (8 * k) 8

/-- The format descriptor of the 16 bytes of step 6 (R99). -/
def descriptorOf (f : List Byte) : Descriptor where
  tag := le16 f 0
  nch := le16 f 2
  rate := le32 f 4
  brate := le32 f 8
  ba := le16 f 12
  bits := le16 f 14

/-- `{ c | NACC <= c <= 15 and CHSEL[c] == 1 }`, lowest first (R224). -/
def selectorsBeyondFile (nacc : Nat) (chsel : Half) : List Nat :=
  (List.range 16).filter fun c => decide (nacc ≤ c) && chsel.getLsbD c

/-- `{ c | 0 <= c < NACC and SEL[c] == 1 and c >= NCH }`, lowest first (R148). -/
def selectorsBeyondChannels (nacc : Nat) (sel : Half) (nch : Nat) : List Nat :=
  (List.range nacc).filter fun c => sel.getLsbD c && decide (nch ≤ c)

/-- `{ c | c < NACC, SEL[c] = 1 }` (R231). -/
def selectedChannels (nacc : Nat) (sel : Half) : List Nat :=
  (List.range nacc).filter fun c => sel.getLsbD c

/-- `Sample(k, c)` (R190), read through `rd`, which gives the byte of `BUF` at an index. -/
def sampleBytes (rd : Nat → Byte) (ba bps k c : Nat) : List Byte :=
  (List.range bps).map fun j => rd (k * ba + c * bps + j)

/-- The null predicate (R191): all the bytes of the sample are zero. -/
def isNull (sample : List Byte) : Bool := sample.all fun b => b == 0#8

end Sys2Proof.Machine
end

