-- ==== Sys2Proof/Machine/Ops.lean ====
section
/-! DEFINITION. The shared operations: the byte memory `BUF` (R31), the stream read (R62), the time sample
(R237), the lookup table's read (R30), the abort of a command, which is this block's taking of an exception
(R264), and the clear at acceptance, which is its return (R228, R270). -/

namespace Sys2Proof.Machine

/-! ### The byte memory `BUF` -/

/-- What a byte of `BUF` that nothing has written reads as: 0, DESIGN CHOICE (log 7); R31 and U4 say that
no rule reads one. -/
def Memory.unlisted : Byte := 0#8

/-- The byte of `BUF` at an index. -/
def Memory.read : Memory → Nat → Byte
  | [], _ => Memory.unlisted
  | (a, b) :: m, i => if a = i then b else Memory.read m i

/-- The cells that hold `bs` from index `i` on, without those equal to an unlisted byte. -/
def Memory.cells : Nat → List Byte → Memory
  | _, [] => []
  | i, b :: bs => if b = Memory.unlisted then Memory.cells (i + 1) bs else (i, b) :: Memory.cells (i + 1) bs

/-- `BUF[0 .. |r|-1] <- r` (R31, R173, R174): the bytes from `|r|` on stay as they were. -/
def Memory.load (m : Memory) (r : List Byte) : Memory :=
  Memory.cells 0 r ++ m.filter fun cell => decide (r.length ≤ cell.1)

/-- The canonical form from an index on: indices strictly rising, no cell equal to an unlisted byte. -/
def Memory.wfFrom : Nat → Memory → Bool
  | _, [] => true
  | lo, (a, b) :: m => decide (lo ≤ a) && (b != Memory.unlisted) && Memory.wfFrom (a + 1) m

/-- The canonical form. -/
def Memory.wf (m : Memory) : Bool := Memory.wfFrom 0 m

/-! ### The stream and the time input -/

/-- `StreamRead(n)` (R62): the bytes obtained and the state after; `none` while the host has delivered
fewer than `n` bytes and has not signalled the end: the read blocks (R63). -/
def streamRead (n : Nat) (s : State) : Option (List Byte × State) :=
  if s.eosf then some ([], s)
  else if n ≤ s.ports.inBytes.length then
    some (s.ports.inBytes.take n,
      { s with pos := s.pos + n, ports := { s.ports with inBytes := s.ports.inBytes.drop n } })
  else if s.ports.inEnd then
    some (s.ports.inBytes,
      { s with pos := s.pos + s.ports.inBytes.length, eosf := true, ports := { s.ports with inBytes := [] } })
  else none

/-- The value of `TIME_MS` at a sampling moment (R237): the one the host has fixed, or a free value. -/
def timeSample (s : State) : Word :=
  match s.ports.timeIn with
  | t :: _ => t
  | [] => Config.timeMs s.draws

/-- The state after a sample of `TIME_MS`: that sample is spent. -/
def timeAdvance (s : State) : State :=
  match s.ports.timeIn with
  | _ :: ts => { s with ports := { s.ports with timeIn := ts } }
  | [] => { s with draws := s.draws + 1 }

/-! ### The lookup table -/

/-- `TABLE[i]`: the stored entry when `TVALID = 1`; a free value while `TVALID = 0`, when the contents of
`TABLE` are unspecified (R30, U1, log 8). -/
def tableRead (s : State) (i : Byte) : Word :=
  if s.tvalid then s.table.getD i.toNat 0#32 else Config.tableUnbuilt s.draws i

/-! ### The end of a command in an error, and the acceptance of the next -/

/-- `raise K(step, sub, exp, found)` (R264): this block's taking of an exception. The error registers are
written, every other result register but the mode tag is 0, `PHASE` becomes `ERR`; the working state is
left as it was. The mode tag is 0 for `InvalidCommand`. -/
def raiseErr (kind : ErrKind) (step sub expected found : Nat) (s : State) : State :=
  { s with
    phase := .err
    res := { Results.cleared s.params.nacc with
      modeTag := if kind = .invalidCommand then 0#3 else s.res.modeTag
      errKind := BitVec.ofNat 32 (errCode kind)
      errStep := errStepWord step sub
      errExp := BitVec.ofNat 32 expected
      errFound := BitVec.ofNat 32 found } }

/-- The acceptance of a command word (R220, R228, R270): the word leaves the port and every result register
becomes 0. Nothing else is restored, because nothing was saved. -/
def acceptClear (s : State) : State :=
  { s with
    res := Results.cleared s.params.nacc
    ports := { s.ports with cmd := none } }

/-- The state that reset yields in a machine whose ports go on as they are (R50, R290, R292). The free
values after it are fresh ones. -/
def resetCore (s : State) : State := State.resetWith s.params s.ports (s.draws + 1)

end Sys2Proof.Machine
end

