-- ==== Sys2Proof/Machine/Engine.lean ====
section
/-! DEFINITION. The CRC-32 engine (40_crc_engine.md): `REFLECT`, `TENTRY`, `TBUILD.LOOP`, `CRCUPD`,
`CRCFIN`. A value operation performed by itself delivers its result in `uopOut` (log 9); inside another
operation its result goes where that operation's rule says. -/

namespace Sys2Proof.Machine

/-- `REFLECT(v, w)` (R120): bit `i` of the low `w` bits becomes bit `w-1-i`; the bits of `v` from `w` on
are not read. -/
def reflect (v : Word) (w : Nat) : Word :=
  (List.range w).foldl (fun r i => if v.getLsbD i then r ||| (1#32 <<< (w - 1 - i)) else r) 0#32

/-- One of the eight steps of R121: the top bit is tested before the shift (90_conflicts.md C6). -/
def polyStep (x : Word) : Word :=
  if x.getLsbD 31 then (x <<< 1) ^^^ Config.poly else x <<< 1

/-- `polyStep` repeated. -/
def polySteps : Nat → Word → Word
  | 0, x => x
  | n + 1, x => polySteps n (polyStep x)

/-- `TENTRY(b)` (R121). -/
def tentry (b : Byte) : Word :=
  reflect (polySteps 8 (reflect (b.setWidth 32) 8 <<< 24)) 32

/-- The complete table (R122, R128). -/
def builtTable : List Word := (List.range 256).map fun i => tentry (BitVec.ofNat 8 i)

/-- `CRCUPD(s, b)` (R123) over a table given by its read. -/
def crcUpd (tab : Byte → Word) (st : Word) (b : Byte) : Word :=
  (st >>> 8) ^^^ tab (st.setWidth 8 ^^^ b)

/-- `fold` (R126): `CRCUPD` over a byte sequence, in order. -/
def crcFold (tab : Byte → Word) (st : Word) (m : List Byte) : Word := m.foldl (crcUpd tab) st

/-- `CRCFIN(s)` (R125). -/
def crcFin (st : Word) : Word := st ^^^ Config.xorOut

/-- The function `crc32` (R126), over the table of R128. -/
def crc32 (m : List Byte) : Word := crcFin (crcFold (fun i => tentry i) Config.init m)

/-- What follows the table build (R282): a waiting `RUN` command goes on with the header (R225), a `TBUILD`
command ends in `IDLE` (R223). -/
def afterBuild (s : State) : State :=
  { s with
    runPending := false
    phase := if s.runPending then .header else .idle
    step := if s.runPending then 1 else s.step }

/-- `TBUILD.LOOP` (R122): with `TVALID = 0` the build, in one step with what follows it (log 3); with
`TVALID = 1` nothing is written. -/
def tbuildLoop (s : State) : State :=
  if s.tvalid then s else afterBuild { s with table := builtTable, tvalid := true }

/-- `REFLECT` (R120) performed by itself. -/
def execReflect (v : Word) (w : Nat) (s : State) : Host.Outcome State Fault Refusal :=
  .next { s with uopOut := reflect v w }

/-- `TENTRY` (R121) performed by itself. -/
def execTentry (b : Byte) (s : State) : Host.Outcome State Fault Refusal :=
  .next { s with uopOut := tentry b }

/-- `TBUILD.LOOP` (R122). -/
def execTbuildLoop (s : State) : Host.Outcome State Fault Refusal := .next (tbuildLoop s)

/-- `CRCUPD` (R123) performed by itself. -/
def execCrcupd (st : Word) (b : Byte) (s : State) : Host.Outcome State Fault Refusal :=
  .next { s with uopOut := crcUpd (tableRead s) st b }

/-- `CRCFIN` (R125) performed by itself. -/
def execCrcfin (st : Word) (s : State) : Host.Outcome State Fault Refusal :=
  .next { s with uopOut := crcFin st }

end Sys2Proof.Machine
end

