-- ==== Sys2Proof/Machine/Commands.lean ====
section
/-! DEFINITION. The host commands (45_commands_and_results.md): `TBUILD` (R223) and the five `RUN` commands
(R222), each from its acceptance (R224) to the phase in which the sequencer goes on. A command offered
while the core is busy is not accepted: it waits, and nothing changes (R221). -/

namespace Sys2Proof.Machine

/-- The mode latch, the mode tag, `POS`, `EOSF` and `T0` at the acceptance of a `RUN` command (R224, R226,
R227, R229). -/
def latchRun (report filt gran : Bool) (chsel : Half) (s : State) : State :=
  timeAdvance { s with
    mode := { gran := gran, filt := filt, report := report, sel := chsel }
    res := { s.res with modeTag := modeTagOf report filt gran }
    pos := 0
    eosf := false
    t0 := timeSample s }

/-- `RUN` past its acceptance checks (R222, R225): the header, after the table build if it is needed. -/
def startRun (s : State) : State :=
  if s.tvalid then { s with phase := .header, step := 1 }
  else { s with phase := .tbuild, runPending := true }

/-- The requested channels beyond the accumulator file, lowest first; only a per-channel, non-report command
is examined (R224, R101). -/
def refusedChannels (report gran : Bool) (chsel : Half) (nacc : Nat) : List Nat :=
  if report = false ∧ gran = true then selectorsBeyondFile nacc chsel else []

/-- The selector check of R224 on the latched state, then `RUN`. -/
def checkSelectors (report gran : Bool) (chsel : Half) (s : State) : State :=
  match refusedChannels report gran chsel s.params.nacc with
  | c :: _ => raiseErr .invalidChannelSelector 0 0 (s.params.nacc - 1) c s
  | [] => startRun s

/-- `Accept(w)` of a `RUN` word (R224). -/
def acceptRun (report filt gran : Bool) (chsel : Half) (s : State) : Host.Outcome State Fault Refusal :=
  if s.phase.ready then
    .next (checkSelectors report gran chsel (latchRun report filt gran chsel (acceptClear s)))
  else .next s

/-- `Accept(w)` of an illegal word (R224, R263): the clear, then `InvalidCommand`. -/
def acceptIllegal (w : Word) (s : State) : State := raiseErr .invalidCommand 0 0 0 w.toNat (acceptClear s)

/-- `TBUILD` (R223): with `TVALID = 0` the table is built in `PHASE = TBUILD`, and the phase after that is
`IDLE`; with `TVALID = 1` the command ends in `IDLE` at once. -/
def execTbuild (s : State) : Host.Outcome State Fault Refusal :=
  if s.phase.ready then
    if s.tvalid then .next { acceptClear s with phase := .idle }
    else .next { acceptClear s with phase := .tbuild, runPending := false }
  else .next s

/-- `RUN.BLK.ALL` (R222). -/
def execRunBlkAll (chsel : Half) (s : State) : Host.Outcome State Fault Refusal :=
  acceptRun false false false chsel s

/-- `RUN.CH.ALL` (R222). -/
def execRunChAll (chsel : Half) (s : State) : Host.Outcome State Fault Refusal :=
  acceptRun false false true chsel s

/-- `RUN.BLK.NN` (R222). -/
def execRunBlkNn (chsel : Half) (s : State) : Host.Outcome State Fault Refusal :=
  acceptRun false true false chsel s

/-- `RUN.CH.NN` (R222). -/
def execRunChNn (chsel : Half) (s : State) : Host.Outcome State Fault Refusal :=
  acceptRun false true true chsel s

/-- `RUN.RPT` (R222). -/
def execRunRpt (filt gran : Bool) (chsel : Half) (s : State) : Host.Outcome State Fault Refusal :=
  acceptRun true filt gran chsel s

end Sys2Proof.Machine
end

