-- ==== Sys2Proof/Machine/Commit.lean ====
section
/-! DEFINITION. The two operations that end a pass: `COMMIT` (45_commands_and_results.md R230 to R232) and
`RAISE` (60_exceptions.md R264). Each is one atomic write of the result register file (R72). -/

namespace Sys2Proof.Machine

/-- `ActiveSet` (R201, R231): `{0}` in block modes, the selected channels in per-channel modes,
`{0, 1, 2}` in report mode. -/
def activeSet (nacc : Nat) (m : Mode) : List Nat :=
  if m.report then [0, 1, 2] else if m.gran then selectedChannels nacc m.sel else [0]

/-- `sum over i in A of 2^i` (R230). -/
def validWord (a : List Nat) : Word := BitVec.ofNat 32 ((a.map fun i => 2 ^ i).sum)

/-- `CRC[0 .. NACC-1]` at the commit (R230): the finalized copy of an active accumulator, 0 for the rest. -/
def committedCrc (nacc : Nat) (a : List Nat) (acc : List Word) : List Word :=
  (List.range nacc).map fun i => if i ∈ a then crcFin (acc.getD i 0#32) else 0#32

/-- The commit without the report extras (R230). -/
def commitPlain (s : State) : State :=
  { s with
    phase := .done
    res := { s.res with
      crc := committedCrc s.params.nacc (activeSet s.params.nacc s.mode) s.acc
      valid := validWord (activeSet s.params.nacc s.mode)
      errKind := 0#32
      errStep := 0#32
      errExp := 0#32
      errFound := 0#32 } }

/-- The report extras (R232): the descriptor, the byte total, and `ELAPSED_MS` from a sample of `TIME_MS`. -/
def reportExtras (s : State) : State :=
  timeAdvance { s with
    res := { s.res with
      fmtTag := s.fmt.tag.setWidth 32
      fmtNch := s.fmt.nch.setWidth 32
      fmtRate := s.fmt.rate
      fmtByteRate := s.fmt.brate
      fmtAlign := s.fmt.ba.setWidth 32
      fmtBits := s.fmt.bits.setWidth 32
      totalLo := s.cnt.tot.setWidth 32
      totalHi := s.cnt.tot.extractLsb' 32 32
      elapsedMs := timeSample s - s.t0 } }

/-- `COMMIT` (R230): the report extras are written only when `REPORT = 1`. -/
def execCommit (s : State) : Host.Outcome State Fault Refusal :=
  if s.mode.report then .next (reportExtras (commitPlain s)) else .next (commitPlain s)

/-- `RAISE` (R264). -/
def execRaise (kind : ErrKind) (step sub expected found : Nat) (s : State) :
    Host.Outcome State Fault Refusal :=
  .next (raiseErr kind step sub expected found s)

end Sys2Proof.Machine
end

