-- ==== Sys2Proof/Machine/Header.lean ====
section
/-! DEFINITION. The header parser (41_header_parser.md): `H1` to `H8`. Each step makes one stream read,
checks it, and either raises an error or goes on to the next step (R140). While the read blocks the core
waits: its state stays as it is (R63). -/

namespace Sys2Proof.Machine

/-- `ReadHdr(s, n)` (R151) and what the step does with the bytes of a full read. The length test comes
before any use of the bytes. -/
def readHdr (stepNo n : Nat) (s : State) (use : List Byte → State → Host.Outcome State Fault Refusal) :
    Host.Outcome State Fault Refusal :=
  match streamRead n s with
  | none => .next s
  | some (r, s') =>
    if r.length < n then .next (raiseErr .truncatedStream stepNo 0 n r.length s') else use r s'

/-- A step whose four bytes must equal a constant (R141, R143, R144, R145, R149). -/
def constStep (stepNo : Nat) (next : Fin 10) (expected : Word) (kind : ErrKind) (s : State) :
    Host.Outcome State Fault Refusal :=
  readHdr stepNo 4 s fun b s' =>
    if le32 b 0 = expected then .next { s' with step := next }
    else .next (raiseErr kind stepNo 0 expected.toNat (le32 b 0).toNat s')

/-- The validation of the format descriptor (R147): the first failing test's kind, sub-cause, expected and
found value, in the rule's order. The products are formed without wrap-around (R156). -/
def descriptorCheck (f : Descriptor) : Option (ErrKind × Nat × Nat × Nat) :=
  if f.nch.toNat = 0 then some (.inconsistentFormat, 1, 1, 0)
  else if f.bits.toNat = 0 ∨ f.bits.toNat % 8 ≠ 0 then some (.inconsistentFormat, 2, 8, f.bits.toNat)
  else if f.ba.toNat ≠ f.bits.toNat / 8 * f.nch.toNat then
    some (.inconsistentFormat, 3, (f.bits.toNat / 8 * f.nch.toNat) % 2 ^ 32, f.ba.toNat)
  else if f.brate.toNat ≠ f.rate.toNat * f.ba.toNat then
    some (.inconsistentFormat, 4, (f.rate.toNat * f.ba.toNat) % 2 ^ 32, f.brate.toNat)
  else if f.tag ≠ Config.pcmTag then some (.notPcm, 0, 1, f.tag.toNat)
  else none

/-- The selected channels the file does not have, lowest first; only a per-channel pass has any (R148). -/
def missingChannels (s : State) : List Nat :=
  if s.mode.report = false ∧ s.mode.gran = true then
    selectorsBeyondChannels s.params.nacc s.mode.sel s.fmt.nch.toNat
  else []

/-- The end of step 6: `BPS`, `BUFSZ` and the next step (R148, R153). -/
def deriveGeometry (s : State) : State :=
  { s with
    bps := BitVec.ofNat 16 (s.fmt.bits.toNat / 8)
    bufsz := BitVec.ofNat 32 (s.params.bufBlocks * s.fmt.ba.toNat)
    step := 7 }

/-- Step 6 after its registers are written: validation (R147), then the selector check (R148). -/
def checkFormat (s : State) : State :=
  match descriptorCheck s.fmt with
  | some (kind, sub, expected, found) => raiseErr kind 6 sub expected found s
  | none =>
    match missingChannels s with
    | c :: _ => raiseErr .invalidChannelSelector 6 0 (s.fmt.nch.toNat - 1) c s
    | [] => deriveGeometry s

/-- `H1` (R141). -/
def execH1 (s : State) : Host.Outcome State Fault Refusal := constStep 1 2 Config.riffTag .notRiff s

/-- `H2` (R142): the value is discarded. -/
def execH2 (s : State) : Host.Outcome State Fault Refusal :=
  readHdr 2 4 s fun _ s' => .next { s' with step := 3 }

/-- `H3` (R143). -/
def execH3 (s : State) : Host.Outcome State Fault Refusal := constStep 3 4 Config.waveTag .notWave s

/-- `H4` (R144). -/
def execH4 (s : State) : Host.Outcome State Fault Refusal := constStep 4 5 Config.fmtTag .missingFmtChunk s

/-- `H5` (R145). -/
def execH5 (s : State) : Host.Outcome State Fault Refusal :=
  constStep 5 6 Config.fmtSize .unsupportedFmtChunkSize s

/-- `H6` (R146 to R148): one read of 16 bytes, the six registers written together, then the checks. -/
def execH6 (s : State) : Host.Outcome State Fault Refusal :=
  readHdr 6 16 s fun f s' => .next (checkFormat { s' with fmt := descriptorOf f })

/-- `H7` (R149). -/
def execH7 (s : State) : Host.Outcome State Fault Refusal := constStep 7 8 Config.dataTag .missingDataChunk s

/-- Step 8 after `DSIZE` is written: its alignment, and the entry to the data phase (R150). -/
def checkDataSize (s : State) : Host.Outcome State Fault Refusal :=
  if s.cnt.dsize.toNat = 0 then .next { s with phase := .data, step := 9, primed := false }
  else if s.fmt.ba.toNat = 0 then .fault .zeroBlockAlign
  else if s.cnt.dsize.toNat % s.fmt.ba.toNat ≠ 0 then
    .next (raiseErr .dataNotAligned 8 0 s.fmt.ba.toNat s.cnt.dsize.toNat s)
  else .next { s with phase := .data, step := 9, primed := false }

/-- `H8` (R150). -/
def execH8 (s : State) : Host.Outcome State Fault Refusal :=
  readHdr 8 4 s fun b s' => checkDataSize { s' with cnt := { s'.cnt with dsize := le32 b 0 } }

end Sys2Proof.Machine
end

