-- ==== Sys2Proof/Machine/Accumulate.lean ====
section
/-! DEFINITION. The accumulation modes (43_accumulation_modes.md): `ACC.BLK.ALL`, `ACC.BLK.NN`,
`ACC.CH.ALL`, `ACC.CH.NN`, `ACC.RPT`, and the dispatch of R203. Each operation visits the blocks of the
buffer in order, in a block the channels in order, in a sample the bytes in order (R190). -/

namespace Sys2Proof.Machine

/-- The geometry of a buffer (R190): what the accumulation of `GOT` bytes depends on besides the bytes. -/
structure Geometry where
  /-- `GOT div BA`, the whole blocks of the buffer. -/
  blocks : Nat
  /-- `BA`. -/
  ba : Nat
  /-- `BPS`. -/
  bps : Nat
  /-- `NCH`. -/
  nch : Nat
  deriving DecidableEq, Repr

/-- The geometry that a state's registers give. -/
def geometryOf (s : State) : Geometry where
  blocks := s.cnt.got.toNat / s.fmt.ba.toNat
  ba := s.fmt.ba.toNat
  bps := s.bps.toNat
  nch := s.fmt.nch.toNat

/-- `Feed(i, k, c)` (R192): every byte of the sample, in order, to accumulator `i`. -/
def feed (tab : Byte → Word) (acc : List Word) (i : Nat) (sample : List Byte) : List Word :=
  acc.set i (crcFold tab (acc.getD i 0#32) sample)

/-- `for k in 0 .. blocks-1: for c in 0 .. NCH-1: visit(k, c)` over the accumulator file. -/
def overSamples (blocks nch : Nat) (visit : List Word → Nat → Nat → List Word) (acc : List Word) :
    List Word :=
  (List.range blocks).foldl (fun a k => (List.range nch).foldl (fun a c => visit a k c) a) acc

/-- `ACC.BLK.ALL` (R196): the accumulators after it. -/
def blkAllAcc (tab : Byte → Word) (rd : Nat → Byte) (got : Nat) (acc : List Word) : List Word :=
  feed tab acc 0 ((List.range got).map rd)

/-- `ACC.BLK.NN` (R197): the accumulators after it. -/
def blkNnAcc (tab : Byte → Word) (rd : Nat → Byte) (g : Geometry) (acc : List Word) : List Word :=
  overSamples g.blocks g.nch (fun a k c =>
    if isNull (sampleBytes rd g.ba g.bps k c) then a else feed tab a 0 (sampleBytes rd g.ba g.bps k c)) acc

/-- `ACC.CH.ALL` (R198): the accumulators after it. -/
def chAllAcc (tab : Byte → Word) (rd : Nat → Byte) (g : Geometry) (nacc : Nat) (sel : Half)
    (acc : List Word) : List Word :=
  overSamples g.blocks g.nch (fun a k c =>
    if c < nacc ∧ sel.getLsbD c = true then feed tab a c (sampleBytes rd g.ba g.bps k c) else a) acc

/-- `ACC.CH.NN` (R199): the accumulators after it. -/
def chNnAcc (tab : Byte → Word) (rd : Nat → Byte) (g : Geometry) (nacc : Nat) (sel : Half)
    (acc : List Word) : List Word :=
  overSamples g.blocks g.nch (fun a k c =>
    if c < nacc ∧ sel.getLsbD c = true ∧ isNull (sampleBytes rd g.ba g.bps k c) = false then
      feed tab a c (sampleBytes rd g.ba g.bps k c)
    else a) acc

/-- `ACC.RPT` (R200): the accumulators after it. -/
def rptAcc (tab : Byte → Word) (rd : Nat → Byte) (g : Geometry) (acc : List Word) : List Word :=
  overSamples g.blocks g.nch (fun a k c =>
    let sample := sampleBytes rd g.ba g.bps k c
    let a0 := feed tab a 0 sample
    if isNull sample then a0
    else
      let a1 := feed tab a0 1 sample
      if c = 0 then feed tab a1 2 sample else a1) acc

/-- Whether every sample that a geometry visits lies inside `BUF[0 .. BUFSZ-1]` (R31, R190). -/
def samplesInside (g : Geometry) (bufsz : Nat) : Bool :=
  g.blocks == 0 || g.nch * g.bps == 0 || decide ((g.blocks - 1) * g.ba + g.nch * g.bps ≤ bufsz)

/-- The state with another accumulator file: the only write of an accumulation operation. -/
def withAcc (s : State) (acc : List Word) : State := { s with acc := acc }

/-- An accumulation operation over samples: the accumulators after it, or a fault where R190 gives no
geometry (`BA = 0`) or `BUF` has no such byte (log 12, log 13). -/
def accSamples (s : State) (after : Geometry → List Word) : Host.Outcome State Fault Refusal :=
  if s.fmt.ba.toNat = 0 then .fault .zeroBlockAlign
  else if samplesInside (geometryOf s) s.bufsz.toNat then .next (withAcc s (after (geometryOf s)))
  else .fault .bufferOverrun

/-- `ACC.BLK.ALL` on the state. -/
def accBlkAll (s : State) : Host.Outcome State Fault Refusal :=
  if s.cnt.got.toNat ≤ s.bufsz.toNat then
    .next (withAcc s (blkAllAcc (tableRead s) (Memory.read s.buf) s.cnt.got.toNat s.acc))
  else .fault .bufferOverrun

/-- `ACC.BLK.NN` on the state. -/
def accBlkNn (s : State) : Host.Outcome State Fault Refusal :=
  accSamples s fun g => blkNnAcc (tableRead s) (Memory.read s.buf) g s.acc

/-- `ACC.CH.ALL` on the state. -/
def accChAll (s : State) : Host.Outcome State Fault Refusal :=
  accSamples s fun g => chAllAcc (tableRead s) (Memory.read s.buf) g s.params.nacc s.mode.sel s.acc

/-- `ACC.CH.NN` on the state. -/
def accChNn (s : State) : Host.Outcome State Fault Refusal :=
  accSamples s fun g => chNnAcc (tableRead s) (Memory.read s.buf) g s.params.nacc s.mode.sel s.acc

/-- `ACC.RPT` on the state. -/
def accRpt (s : State) : Host.Outcome State Fault Refusal :=
  accSamples s fun g => rptAcc (tableRead s) (Memory.read s.buf) g s.acc

/-- The five accumulation operations, as R203 names them. -/
inductive AccOp where
  | blkAll
  | blkNn
  | chAll
  | chNn
  | rpt
  deriving DecidableEq, Repr

/-- The dispatch of R203: by the mode latch alone. -/
def accOpOf (m : Mode) : AccOp :=
  if m.report then .rpt
  else if m.gran then (if m.filt then .chNn else .chAll)
  else (if m.filt then .blkNn else .blkAll)

/-- `Accumulate(GOT)` (R203). -/
def accumulate (s : State) : Host.Outcome State Fault Refusal :=
  match accOpOf s.mode with
  | .blkAll => accBlkAll s
  | .blkNn => accBlkNn s
  | .chAll => accChAll s
  | .chNn => accChNn s
  | .rpt => accRpt s

/-- `ACC.BLK.ALL` (R196). -/
def execAccBlkAll (s : State) : Host.Outcome State Fault Refusal := accBlkAll s

/-- `ACC.BLK.NN` (R197). -/
def execAccBlkNn (s : State) : Host.Outcome State Fault Refusal := accBlkNn s

/-- `ACC.CH.ALL` (R198). -/
def execAccChAll (s : State) : Host.Outcome State Fault Refusal := accChAll s

/-- `ACC.CH.NN` (R199). -/
def execAccChNn (s : State) : Host.Outcome State Fault Refusal := accChNn s

/-- `ACC.RPT` (R200). -/
def execAccRpt (s : State) : Host.Outcome State Fault Refusal := accRpt s

end Sys2Proof.Machine
end

