-- ==== Sys2Proof/Machine/Reader.lean ====
section
/-! DEFINITION. The data phase (42_stream_reader.md): its start (R172) and one iteration of the read loop in
its two forms, `RDBUF.KNOWN` (R173) and `RDBUF.UNKNOWN` (R174). The commit that ends the loop is an
operation of its own (Machine/Commit.lean), which the sequencer selects (R175). -/

namespace Sys2Proof.Machine

/-- `DataStart` (R172, R193). -/
def dataStart (s : State) : State :=
  { s with
    acc := List.replicate s.params.nacc Config.init
    cnt := { s.cnt with tot := 0#64, rem := s.cnt.dsize, last := false }
    primed := true }

/-- `REQ <- req` and `GOT <- |r|`. -/
def noteRead (req got : Nat) (s : State) : State :=
  { s with cnt := { s.cnt with req := BitVec.ofNat 32 req, got := BitVec.ofNat 32 got } }

/-- `BUF[0 .. GOT-1] <- r`, then `Accumulate(GOT)`, then `TOT <- (TOT + GOT) mod 2^64` (R173, R174). -/
def takeBuffer (r : List Byte) (s : State) : Host.Outcome State Fault Refusal :=
  match accumulate { s with buf := Memory.load s.buf r } with
  | .next s' => .next { s' with cnt := { s'.cnt with tot := s'.cnt.tot + BitVec.ofNat 64 r.length } }
  | .fault f => .fault f
  | .refused f => .refused f

/-- `REM <- REM - GOT` (R173). -/
def spendRem (got : Nat) (s : State) : State :=
  { s with cnt := { s.cnt with rem := s.cnt.rem - BitVec.ofNat 32 got } }

/-- The request of the known-size form: `min(BUFSZ, REM)` (R173). -/
def knownRequest (s : State) : Nat := min s.bufsz.toNat s.cnt.rem.toNat

/-- `RDBUF.KNOWN` (R173). -/
def execRdbufKnown (s : State) : Host.Outcome State Fault Refusal :=
  match streamRead (knownRequest s) s with
  | none => .next s
  | some (r, s') =>
    if r.length < knownRequest s then
      .next (raiseErr .corruptedFile 9 0 (knownRequest s) r.length (noteRead (knownRequest s) r.length s'))
    else
      match takeBuffer r (noteRead (knownRequest s) r.length s') with
      | .next s'' => .next (spendRem r.length s'')
      | .fault f => .fault f
      | .refused f => .refused f

/-- `LAST <- 1` (R174). -/
def noteLast (s : State) : State := { s with cnt := { s.cnt with last := true } }

/-- `RDBUF.UNKNOWN` (R174). -/
def execRdbufUnknown (s : State) : Host.Outcome State Fault Refusal :=
  match streamRead s.bufsz.toNat s with
  | none => .next s
  | some (r, s') =>
    if r.length < s.bufsz.toNat then
      if s.fmt.ba.toNat = 0 then .fault .zeroBlockAlign
      else if r.length % s.fmt.ba.toNat ≠ 0 then
        .next (raiseErr .dataNotAligned 9 0 s.fmt.ba.toNat r.length
          (noteLast (noteRead s.bufsz.toNat r.length s')))
      else takeBuffer r (noteLast (noteRead s.bufsz.toNat r.length s'))
    else takeBuffer r (noteRead s.bufsz.toNat r.length s')

end Sys2Proof.Machine
end

