-- ==== Sys2Proof/Machine/Dispatch.lean ====
section
/-! DEFINITION. One arm per operation of spec/opcode_table.json, each a direct call of its meaning. -/

namespace Sys2Proof.Machine

def exec (i : Instr) (s : State) : Host.Outcome State Fault Refusal :=
  match i with
  | .tbuild => Sys2Proof.Machine.execTbuild s
  | .runBlkAll chsel => Sys2Proof.Machine.execRunBlkAll chsel s
  | .runChAll chsel => Sys2Proof.Machine.execRunChAll chsel s
  | .runBlkNn chsel => Sys2Proof.Machine.execRunBlkNn chsel s
  | .runChNn chsel => Sys2Proof.Machine.execRunChNn chsel s
  | .runRpt filt gran chsel => Sys2Proof.Machine.execRunRpt filt gran chsel s
  | .h1 => Sys2Proof.Machine.execH1 s
  | .h2 => Sys2Proof.Machine.execH2 s
  | .h3 => Sys2Proof.Machine.execH3 s
  | .h4 => Sys2Proof.Machine.execH4 s
  | .h5 => Sys2Proof.Machine.execH5 s
  | .h6 => Sys2Proof.Machine.execH6 s
  | .h7 => Sys2Proof.Machine.execH7 s
  | .h8 => Sys2Proof.Machine.execH8 s
  | .reflect v w => Sys2Proof.Machine.execReflect v w s
  | .tentry b => Sys2Proof.Machine.execTentry b s
  | .tbuildLoop => Sys2Proof.Machine.execTbuildLoop s
  | .crcupd st b => Sys2Proof.Machine.execCrcupd st b s
  | .crcfin st => Sys2Proof.Machine.execCrcfin st s
  | .rdbufKnown => Sys2Proof.Machine.execRdbufKnown s
  | .rdbufUnknown => Sys2Proof.Machine.execRdbufUnknown s
  | .accBlkAll => Sys2Proof.Machine.execAccBlkAll s
  | .accBlkNn => Sys2Proof.Machine.execAccBlkNn s
  | .accChAll => Sys2Proof.Machine.execAccChAll s
  | .accChNn => Sys2Proof.Machine.execAccChNn s
  | .accRpt => Sys2Proof.Machine.execAccRpt s
  | .commit => Sys2Proof.Machine.execCommit s
  | .raise kind step sub expected found => Sys2Proof.Machine.execRaise kind step sub expected found s

end Sys2Proof.Machine
end

