-- ==== Sys2Proof/WellFormed.lean ====
section
/-! DEFINITION. Which terms of `Instr` are operations the spec has: the ranges that the table rows
`REFLECT` and `RAISE` give their operands. Every other constructor's operands fill their types. -/

namespace Sys2Proof

/-- The steps at which each error kind can be raised (60_exceptions.md R251, column "raised at step"). -/
def ErrKind.raisedAt : ErrKind → Nat → Bool
  | .notRiff, n => n == 1
  | .notWave, n => n == 3
  | .missingFmtChunk, n => n == 4
  | .unsupportedFmtChunkSize, n => n == 5
  | .inconsistentFormat, n => n == 6
  | .notPcm, n => n == 6
  | .missingDataChunk, n => n == 7
  | .truncatedStream, n => decide (1 ≤ n ∧ n ≤ 8)
  | .dataNotAligned, n => n == 8 || n == 9
  | .corruptedFile, n => n == 9
  | .invalidChannelSelector, n => n == 0 || n == 6
  | .invalidCommand, n => n == 0

/-- The sub-causes of each kind (10_state.md R39: nonzero only for `InconsistentFormat`, 1 to 4). -/
def ErrKind.subOk : ErrKind → Nat → Bool
  | .inconsistentFormat, n => decide (1 ≤ n ∧ n ≤ 4)
  | _, n => n == 0

/-- Well-formedness. `REFLECT`: a width 1 to 32 (its table row). `RAISE`: a step at which the kind is
raised (R251), a sub-cause the kind has (R39), and two `u32` context values (its table row). -/
def Instr.wellFormed : Instr → Bool
  | .reflect _ w => decide (1 ≤ w ∧ w ≤ 32)
  | .raise k step sub expected found =>
    k.raisedAt step && k.subOk sub && decide (expected < 2 ^ 32) && decide (found < 2 ^ 32)
  | .tbuild => true
  | .runBlkAll _ => true
  | .runChAll _ => true
  | .runBlkNn _ => true
  | .runChNn _ => true
  | .runRpt _ _ _ => true
  | .h1 => true
  | .h2 => true
  | .h3 => true
  | .h4 => true
  | .h5 => true
  | .h6 => true
  | .h7 => true
  | .h8 => true
  | .tentry _ => true
  | .tbuildLoop => true
  | .crcupd _ _ => true
  | .crcfin _ => true
  | .rdbufKnown => true
  | .rdbufUnknown => true
  | .accBlkAll => true
  | .accBlkNn => true
  | .accChAll => true
  | .accChNn => true
  | .accRpt => true
  | .commit => true

end Sys2Proof
end

