-- ==== Sys2Proof/Decode.lean ====
section
/-! DEFINITION. Decoding and encoding (30_encoding.md). A `CMD` operation is read from the 32-bit command
word (R91 to R96), a `HDR` operation is recognised by the position of its field in the stream (R97), and
a `UOP` has no encoding (R90, R107): the sequencer selects it (Machine/Sequencer.lean). Decoding is total
and rejects by name. -/

namespace Sys2Proof

/-- Why bits are no operation. -/
inductive DecodeError where
  /-- `OPC` is not `0x01` or `0x02` (R95, R100). -/
  | reservedOpcode
  /-- `OPC = 0x02` and `RSV != 0` (R94, R100). -/
  | reservedBits
  /-- `OPC = 0x01` and bits 23:0 are not all zero (R95, R100). -/
  | tbuildOperand
  /-- No header field has this offset and length (R73). -/
  | unknownField
  /-- The operation has no encoding (R90). -/
  | noEncoding
  deriving DecidableEq, Repr

/-- `OPC`, bits 31:24 of the command word (R91). -/
def cmdOpc (w : Word) : Byte := w.extractLsb' 24 8

/-- `RSV`, bits 23:19 (R91). -/
def cmdRsv (w : Word) : BitVec 5 := w.extractLsb' 19 5

/-- `REPORT`, bit 18 (R91). -/
def cmdReport (w : Word) : Bool := w.getLsbD 18

/-- `FILT`, bit 17 (R91). -/
def cmdFilt (w : Word) : Bool := w.getLsbD 17

/-- `GRAN`, bit 16 (R91). -/
def cmdGran (w : Word) : Bool := w.getLsbD 16

/-- `CHSEL`, bits 15:0 (R91). -/
def cmdChsel (w : Word) : Half := w.extractLsb' 0 16

/-- The `RUN` mnemonic of the mode bits (R96): `REPORT`, then `FILT`, then `GRAN`. -/
def decodeRun (report filt gran : Bool) (chsel : Half) : Instr :=
  if report then .runRpt filt gran chsel
  else if filt then (if gran then .runChNn chsel else .runBlkNn chsel)
  else (if gran then .runChAll chsel else .runBlkAll chsel)

/-- The command of a word (R96), or why the word is illegal (R100), tested in the order of R224. -/
def decodeCmd (w : Word) : Except DecodeError Instr :=
  if cmdOpc w = 0x01#8 then
    if w.extractLsb' 0 24 = 0#24 then .ok .tbuild else .error .tbuildOperand
  else if cmdOpc w = 0x02#8 then
    if cmdRsv w = 0#5 then .ok (decodeRun (cmdReport w) (cmdFilt w) (cmdGran w) (cmdChsel w))
    else .error .reservedBits
  else .error .reservedOpcode

/-- The header operation that owns the field at a stream offset (R73, R97). -/
def decodeField (offset length : Nat) : Except DecodeError Instr :=
  match offset, length with
  | 0, 4 => .ok .h1
  | 4, 4 => .ok .h2
  | 8, 4 => .ok .h3
  | 12, 4 => .ok .h4
  | 16, 4 => .ok .h5
  | 20, 16 => .ok .h6
  | 36, 4 => .ok .h7
  | 40, 4 => .ok .h8
  | _, _ => .error .unknownField

/-- The header operation of a step number (R140): `PHASE = HEADER` and `STEP = n`. -/
def decodeStep (n : Nat) : Except DecodeError Instr :=
  match n with
  | 1 => .ok .h1
  | 2 => .ok .h2
  | 3 => .ok .h3
  | 4 => .ok .h4
  | 5 => .ok .h5
  | 6 => .ok .h6
  | 7 => .ok .h7
  | 8 => .ok .h8
  | _ => .error .unknownField

/-- The header operation whose constant (R98) a little-endian `u32` is: the five `HDR` rows of the
opcode table that fix bits. No such constant is a legal command word (R95). -/
def decodeConst (w : Word) : Option Instr :=
  if w = Config.riffTag then some .h1
  else if w = Config.waveTag then some .h3
  else if w = Config.fmtTag then some .h4
  else if w = Config.fmtSize then some .h5
  else if w = Config.dataTag then some .h7
  else none

/-- What an operation is encoded as. -/
inductive Encoding where
  /-- A word on the command port (format `CMD`). -/
  | word (w : Word)
  /-- A field of the stream header, recognised by its offset and length (format `HDR`). -/
  | field (offset length : Nat)
  /-- No encoding (format `UOP`). -/
  | internal
  deriving DecidableEq, Repr

/-- The operation an encoding stands for. -/
def decode : Encoding → Except DecodeError Instr
  | .word w => decodeCmd w
  | .field offset length => decodeField offset length
  | .internal => .error .noEncoding

/-- The instruction read from an instruction whose bits are `w`, numbered as spec/opcode_table.json
numbers them. 32 bits or fewer: a command word, or else the constant of a header field. 128 bits: the one
16-byte field, step 6. The `UOP` rows have no encoding and are never answered (log 18). -/
def decodeTableWord (nbits w : Nat) : Option Instr :=
  if nbits ≤ 32 then
    match decodeCmd (BitVec.ofNat 32 w) with
    | .ok i => some i
    | .error _ => decodeConst (BitVec.ofNat 32 w)
  else if nbits = 128 then some .h6
  else none

/-- The word of a `RUN` command (R91): `OPC = 0x02`, `RSV = 0`, the mode bits, `CHSEL`. -/
def runWord (report filt gran : Bool) (chsel : Half) : Word :=
  0x02#8 ++ 0#5 ++ BitVec.ofBool report ++ BitVec.ofBool filt ++ BitVec.ofBool gran ++ chsel

/-- The encoding of an operation, from the pattern table of R96 and the layout of R73. -/
def encode : Instr → Encoding
  | .tbuild => .word 0x01000000#32
  | .runBlkAll chsel => .word (runWord false false false chsel)
  | .runChAll chsel => .word (runWord false false true chsel)
  | .runBlkNn chsel => .word (runWord false true false chsel)
  | .runChNn chsel => .word (runWord false true true chsel)
  | .runRpt filt gran chsel => .word (runWord true filt gran chsel)
  | .h1 => .field 0 4
  | .h2 => .field 4 4
  | .h3 => .field 8 4
  | .h4 => .field 12 4
  | .h5 => .field 16 4
  | .h6 => .field 20 16
  | .h7 => .field 36 4
  | .h8 => .field 40 4
  | .reflect _ _ => .internal
  | .tentry _ => .internal
  | .tbuildLoop => .internal
  | .crcupd _ _ => .internal
  | .crcfin _ => .internal
  | .rdbufKnown => .internal
  | .rdbufUnknown => .internal
  | .accBlkAll => .internal
  | .accBlkNn => .internal
  | .accChAll => .internal
  | .accChNn => .internal
  | .accRpt => .internal
  | .commit => .internal
  | .raise _ _ _ _ _ => .internal

/-- The constant a header field must hold (R98), the `match` of its table row; the fields without one
(`H2`, `H6`, `H8`) have no fixed bits. -/
def fieldConst : Instr → Option Word
  | .h1 => some Config.riffTag
  | .h3 => some Config.waveTag
  | .h4 => some Config.fmtTag
  | .h5 => some Config.fmtSize
  | .h7 => some Config.dataTag
  | _ => none

end Sys2Proof
end

