-- ==== Sys2Proof/Machine/Sequencer.lean ====
section
/-! DEFINITION. The sequencer (R24): which operation the core performs next. It is this block's instruction
fetch: a host command is read from the command port (R220), and every other operation is selected by
`PHASE`, `STEP`, the data-phase registers and the mode latch (R90, the `encoding` column of the table). -/

namespace Sys2Proof.Machine

/-- What the core does next. -/
inductive Selected where
  /-- `IDLE`, `DONE` or `ERR` with no command offered: the core waits (R50, R281). -/
  | wait
  /-- An operation of the opcode table. -/
  | perform (i : Instr)
  /-- A command word that is no command (R100). -/
  | illegal (w : Word)
  /-- The start of the data phase, R172, which has no row of its own. -/
  | dataStart
  /-- `PHASE = TBUILD` over a valid table: what follows the build (R223, R225, log 3). -/
  | buildDone
  /-- A pair of `PHASE` and `STEP` to which R24 gives no operation. -/
  | lost
  deriving DecidableEq, Repr

/-- The loop of the data phase has terminated (R175): `REM == 0` with a known size, `LAST == 1` without. -/
def loopDone (s : State) : Bool :=
  if s.cnt.dsize.toNat = 0 then s.cnt.last else s.cnt.rem.toNat == 0

/-- The selection in `PHASE = DATA` (R170, R175). -/
def selectData (s : State) : Selected :=
  if s.step ≠ 9 then .lost
  else if s.primed = false then .dataStart
  else if loopDone s then .perform .commit
  else if s.cnt.dsize.toNat = 0 then .perform .rdbufUnknown
  else .perform .rdbufKnown

/-- The selection in `PHASE = HEADER`: the step `STEP` (R140). -/
def selectHeader (s : State) : Selected :=
  match decodeStep s.step.val with
  | .ok i => .perform i
  | .error _ => .lost

/-- The selection where a command is accepted (R221): the word on the command port, if any. -/
def selectCommand (s : State) : Selected :=
  match s.ports.cmd with
  | none => .wait
  | some w =>
    match decodeCmd w with
    | .ok i => .perform i
    | .error _ => .illegal w

/-- What the core does next. -/
def select (s : State) : Selected :=
  match s.phase with
  | .idle => selectCommand s
  | .done => selectCommand s
  | .err => selectCommand s
  | .tbuild => if s.tvalid then .buildDone else .perform .tbuildLoop
  | .header => selectHeader s
  | .data => selectData s

end Sys2Proof.Machine
end

