-- ==== Sys2Proof/Machine/Ports.lean ====
section
/-! DEFINITION. The host's side (45_commands_and_results.md): the outputs of the ports and the moves by
which the host changes their inputs between two steps. A step never offers a command, delivers a byte or
moves the time by itself: those are the host's (R11, R49). -/

namespace Sys2Proof.Machine

/-- `cmd_ready` (R221, R290). -/
def State.cmdReady (s : State) : Bool := !s.ports.rst && s.phase.ready

/-- `done` (R234, R290): `STATUS.DONE or STATUS.ERR`. -/
def State.done (s : State) : Bool := !s.ports.rst && (s.phase == .done || s.phase == .err)

/-- The length of the stream read that the core performs next, if it performs one (R71). -/
def nextRead (s : State) : Option Nat :=
  match select s with
  | .perform .h1 => some 4
  | .perform .h2 => some 4
  | .perform .h3 => some 4
  | .perform .h4 => some 4
  | .perform .h5 => some 4
  | .perform .h6 => some 16
  | .perform .h7 => some 4
  | .perform .h8 => some 4
  | .perform .rdbufKnown => some (min s.bufsz.toNat s.cnt.rem.toNat)
  | .perform .rdbufUnknown => some s.bufsz.toNat
  | _ => none

/-- `in_ready` (R236, R290): a stream read is in progress and still lacks bytes (log 24). -/
def State.inReady (s : State) : Bool :=
  !s.ports.rst && !s.eosf &&
    match nextRead s with
    | some n => decide (0 < n)
    | none => false

/-- `in_valid` (R236): the host has a byte to deliver. -/
def State.inValid (s : State) : Bool := !s.ports.inBytes.isEmpty

/-- `in_eos` (R236): asserted when no byte is left. -/
def State.inEos (s : State) : Bool := s.ports.inBytes.isEmpty && s.ports.inEnd

/-- The content of the result register at an address of the file (R36); 0 where the file has none (R47). -/
def resultRegister (s : State) (addr : Nat) : Word :=
  match addr with
  | 0x00 => s.status
  | 0x04 => s.res.errKind
  | 0x08 => s.res.errStep
  | 0x0C => s.res.errExp
  | 0x10 => s.res.errFound
  | 0x14 => s.res.valid
  | 0x20 => s.res.fmtTag
  | 0x24 => s.res.fmtNch
  | 0x28 => s.res.fmtRate
  | 0x2C => s.res.fmtByteRate
  | 0x30 => s.res.fmtAlign
  | 0x34 => s.res.fmtBits
  | 0x38 => s.res.totalLo
  | 0x3C => s.res.totalHi
  | 0x40 => s.res.elapsedMs
  | addr => if 0x80 ≤ addr ∧ addr < 0x80 + 4 * s.params.nacc then s.res.crc.getD ((addr - 0x80) / 4) 0#32 else 0#32

/-- The result read port (R233): `rd_data` for `rd_addr`. It changes no state; an address outside the file
is refused (R47). -/
def readResult (s : State) (addr : Nat) : Host.Outcome Word Fault Refusal :=
  if 0xFC < addr ∨ addr % 4 ≠ 0 then .refused .badReadAddress else .next (resultRegister s addr)

/-- What the host can do between two steps. -/
inductive HostMove where
  /-- Offer a command word (R220). -/
  | offer (w : Word)
  /-- Withdraw the word offered, before its acceptance (R220). -/
  | withdraw
  /-- Drive the stream port for one transfer (R236). -/
  | stream (inValid inEos : Bool) (inData : Byte)
  /-- Withdraw `in_eos` (U17). -/
  | withdrawEnd
  /-- Discard what is left of the stream and deassert `in_eos`, before the next stream (R226). -/
  | discard
  /-- Fix what `TIME_MS` shows at the next sampling moment not yet fixed (R237). -/
  | time (t : Word)
  /-- Drive `rst` (R290). -/
  | reset (level : Bool)
  deriving DecidableEq, Repr

/-- The state with other port inputs: all that a host move changes. -/
def withPorts (s : State) (p : Ports) : State := { s with ports := p }

/-- A move of the host. Two moves that the rules call host errors are refused (U15, U16). -/
def hostMove (m : HostMove) (s : State) : Host.Outcome State Fault Refusal :=
  match m with
  | .offer w =>
    match s.ports.cmd with
    | none => .next (withPorts s { s.ports with cmd := some w })
    | some w' => if w = w' then .next s else .refused .commandWordChanged
  | .withdraw => .next (withPorts s { s.ports with cmd := none })
  | .stream inValid inEos inData =>
    if inValid then
      if inEos || s.ports.inEnd then .refused .streamPortConflict
      else .next (withPorts s { s.ports with inBytes := s.ports.inBytes ++ [inData] })
    else if inEos then .next (withPorts s { s.ports with inEnd := true })
    else .next s
  | .withdrawEnd => .next (withPorts s { s.ports with inEnd := false })
  | .discard => .next (withPorts s { s.ports with inBytes := [], inEnd := false })
  | .time t => .next (withPorts s { s.ports with timeIn := s.ports.timeIn ++ [t] })
  | .reset level => .next (withPorts s { s.ports with rst := level })

end Sys2Proof.Machine
end

