-- ==== Sys2Proof/Machine/Step.lean ====
section
/-! DEFINITION. One step: one operation of the sequencer, as the trace of program P1 (95_test_vectors.md)
cuts a pass into operations (log 1). While the core has no operation, or its stream read blocks, a step
leaves the state as it is (R63, R281, R298). -/

namespace Sys2Proof.Machine

/-- One step. While `rst` is asserted the core is held in its reset state (R290). -/
def step (s : State) : Host.Outcome State Fault Refusal :=
  if s.ports.rst then .next (resetCore s)
  else
    match select s with
    | .wait => .next s
    | .perform i => exec i s
    | .illegal w => .next (acceptIllegal w s)
    | .dataStart => .next (dataStart s)
    | .buildDone => .next (afterBuild s)
    | .lost => .fault .sequencerLost

/-- The header step whose field a constant of R98 is. -/
def fetchStep (w : Word) : Option (Fin 10) :=
  match decodeConst w with
  | some .h1 => some 1
  | some .h3 => some 3
  | some .h4 => some 4
  | some .h5 => some 5
  | some .h7 => some 7
  | _ => none

/-- `s` about to perform header step `n` with `bs` as the next bytes of the stream. -/
def State.atHeader (s : State) (n : Fin 10) (bs : List Byte) : State :=
  { s with
    phase := .header
    step := n
    eosf := false
    ports := { s.ports with rst := false, inBytes := bs ++ s.ports.inBytes } }

/-- `s` with an instruction where `step` takes its next one (log 17): a legal command word, and any word
that is neither a command nor a header constant, on the command port, in a phase that accepts it; a header
constant as the next bytes of the stream, with the sequencer at the step that reads them. -/
def State.withFetchWord (s : State) (nbits w : Nat) : State :=
  if nbits ≤ 32 then
    match decodeCmd (BitVec.ofNat 32 w), fetchStep (BitVec.ofNat 32 w) with
    | .error _, some n => s.atHeader n (le32Bytes (BitVec.ofNat 32 w))
    | _, _ =>
      { s with
        phase := if s.phase.ready then s.phase else .idle
        ports := { s.ports with rst := false, cmd := some (BitVec.ofNat 32 w) } }
  else s.atHeader 6 (le128Bytes (BitVec.ofNat 128 w))

end Sys2Proof.Machine
end

