-- ==== Sys2Proof/Safety.lean ====
section
/-! DEFINITION. What a well-formed state and a safe run are, in the terms the claims use, and the relations
between two states that the noninterference claims compare. -/

namespace Sys2Proof.Machine

/-- The report extras read 0 (R43 to R45). -/
structure NoExtras (r : Results) : Prop where
  fmtTag : r.fmtTag = 0#32
  fmtNch : r.fmtNch = 0#32
  fmtRate : r.fmtRate = 0#32
  fmtByteRate : r.fmtByteRate = 0#32
  fmtAlign : r.fmtAlign = 0#32
  fmtBits : r.fmtBits = 0#32
  totalLo : r.totalLo = 0#32
  totalHi : r.totalHi = 0#32
  elapsedMs : r.elapsedMs = 0#32

/-- The error registers read 0 (R38 to R41). -/
structure NoError (r : Results) : Prop where
  errKind : r.errKind = 0#32
  errStep : r.errStep = 0#32
  errExp : r.errExp = 0#32
  errFound : r.errFound = 0#32

/-- A valid format (R155) with the geometry derived from it (R153), and, in a per-channel pass, no selected
channel that the file lacks (R148). -/
structure FormatOk (s : State) : Prop where
  descriptor : descriptorCheck s.fmt = none
  bps : s.bps = BitVec.ofNat 16 (s.fmt.bits.toNat / 8)
  bufsz : s.bufsz = BitVec.ofNat 32 (s.params.bufBlocks * s.fmt.ba.toNat)
  channels : missingChannels s = []

/-- The mode tag of the mode latch (R37, R229). -/
def latchedTag (s : State) : BitVec 3 := modeTagOf s.mode.report s.mode.filt s.mode.gran

/-- The invariant of the machine. -/
structure StateInv (s : State) : Prop where
  /-- R9. -/
  params : s.params.Wf
  /-- R28: `NACC` accumulators. -/
  accSize : s.acc.length = s.params.nacc
  /-- R36: `NACC` registers `CRC[i]`. -/
  crcSize : s.res.crc.length = s.params.nacc
  /-- R30: 256 entries. -/
  tableSize : s.table.length = 256
  /-- `BUF` is in its canonical form. -/
  buf : Memory.wf s.buf = true
  /-- R32: `TVALID = 1` only over the complete table. -/
  tableBuilt : s.tvalid = true → s.table = builtTable
  /-- R24: `STEP` is 1 to 8 in `HEADER`. -/
  headerStep : s.phase = .header → 1 ≤ s.step.val ∧ s.step.val ≤ 8
  /-- R24: `STEP` is 9 in `DATA`. -/
  dataStep : s.phase = .data → s.step = 9
  /-- R225: a pass has a valid table. -/
  passTable : s.phase = .header ∨ s.phase = .data → s.tvalid = true
  /-- R223, R225: the table is built only while it is not valid. -/
  buildNeeded : s.phase = .tbuild → s.tvalid = false
  /-- R155: after step 6 the format is valid. -/
  headerFormat : s.phase = .header → 7 ≤ s.step.val → FormatOk s
  /-- R155: in the data phase the format is valid. -/
  dataFormat : s.phase = .data → FormatOk s
  /-- R155: `DSIZE` is 0 or a multiple of `BA`. -/
  dataAligned : s.phase = .data → s.cnt.dsize.toNat % s.fmt.ba.toNat = 0
  /-- R173, R176: with a known size, `REM` is a multiple of `BA` and `TOT + REM = DSIZE`. -/
  remAligned : s.phase = .data → s.primed = true → s.cnt.dsize.toNat ≠ 0 →
    s.cnt.rem.toNat % s.fmt.ba.toNat = 0 ∧ s.cnt.tot.toNat + s.cnt.rem.toNat = s.cnt.dsize.toNat
  /-- R42, R46, R266: outside `DONE` no result register holds a result. -/
  noResult : s.phase ≠ .done →
    s.res.valid = 0#32 ∧ s.res.crc = List.replicate s.params.nacc 0#32 ∧ NoExtras s.res
  /-- R38, R266: outside `ERR` no error register holds an error. -/
  noError : s.phase ≠ .err → NoError s.res
  /-- R251: in `ERR` the code is that of an error kind, and the tag of `InvalidCommand` is 0 (R263). -/
  errorKind : s.phase = .err → ∃ k : ErrKind, s.res.errKind = BitVec.ofNat 32 (errCode k) ∧
    (k = .invalidCommand → s.res.modeTag = 0#3)
  /-- R42, R46: in `DONE` the results are the finalized copies of the active accumulators. -/
  results : s.phase = .done →
    s.res.valid = validWord (activeSet s.params.nacc s.mode) ∧
    s.res.crc = committedCrc s.params.nacc (activeSet s.params.nacc s.mode) s.acc
  /-- R43 to R45: the extras are a report pass's only. -/
  extras : s.phase = .done → s.mode.report = false → NoExtras s.res
  /-- R37: the mode tag of a pass is that of the mode latch; after a `TBUILD` command it is 0. -/
  tagPass : s.phase = .header ∨ s.phase = .data ∨ s.phase = .done → s.res.modeTag = latchedTag s
  /-- R37, while the table is built. -/
  tagBuild : s.phase = .tbuild → s.res.modeTag = if s.runPending then latchedTag s else 0#3
  /-- R37, in `IDLE`. -/
  tagIdle : s.phase = .idle → s.res.modeTag = 0#3

/-- A run of `n` steps without a fault or a refusal. -/
def RunsSafely : Nat → State → Prop
  | 0, _ => True
  | n + 1, s => ∃ t, step s = .next t ∧ RunsSafely n t

/-- The transitions of the phase in one step without a reset (R282), and the waits, which keep it. -/
def phaseMove : Phase → Phase → Bool
  | .idle, .data => false
  | .idle, .done => false
  | .idle, _ => true
  | .done, .data => false
  | .done, _ => true
  | .err, .data => false
  | .err, .done => false
  | .err, _ => true
  | .tbuild, .idle => true
  | .tbuild, .header => true
  | .tbuild, _ => false
  | .header, .header => true
  | .header, .data => true
  | .header, .err => true
  | .header, _ => false
  | .data, .data => true
  | .data, .done => true
  | .data, .err => true
  | .data, _ => false

/-- Agreement on the state that a pass has latched (R51). -/
structure AgreePass (a b : State) : Prop where
  mode : a.mode = b.mode
  pos : a.pos = b.pos
  eosf : a.eosf = b.eosf
  t0 : a.t0 = b.t0

/-- Agreement on the format and the geometry. -/
structure AgreeFormat (a b : State) : Prop where
  fmt : a.fmt = b.fmt
  bps : a.bps = b.bps
  bufsz : a.bufsz = b.bufsz

/-- Agreement on what the read loop carries from one iteration to the next. -/
structure AgreeLoop (a b : State) : Prop where
  acc : a.acc = b.acc
  tot : a.cnt.tot = b.cnt.tot
  rem : a.cnt.rem = b.cnt.rem
  last : a.cnt.last = b.cnt.last

/-- Two states that agree on everything live: the inputs, the result registers, `TVALID` and, once valid,
`TABLE`, and in a busy phase what the rules of that phase can still read. Everything an earlier pass left
(`BUF`, the accumulators, the descriptor, the counters, the latch) may differ where it is dead (R51, U2, U4,
U5). -/
structure AgreeLive (a b : State) : Prop where
  params : a.params = b.params
  phase : a.phase = b.phase
  tvalid : a.tvalid = b.tvalid
  ports : a.ports = b.ports
  res : a.res = b.res
  draws : a.draws = b.draws
  table : a.tvalid = true → a.table = b.table
  pending : a.phase = .tbuild → a.runPending = b.runPending
  build : a.phase = .tbuild → a.runPending = true → AgreePass a b
  headerStep : a.phase = .header → a.step = b.step
  header : a.phase = .header → AgreePass a b
  headerFormat : a.phase = .header → 7 ≤ a.step.val → AgreeFormat a b
  dataStep : a.phase = .data → a.step = b.step
  data : a.phase = .data → AgreePass a b
  dataFormat : a.phase = .data → AgreeFormat a b
  dataSize : a.phase = .data → a.cnt.dsize = b.cnt.dsize
  dataPrimed : a.phase = .data → a.primed = b.primed
  dataLoop : a.phase = .data → a.primed = true → AgreeLoop a b

/-- A state without what the time input can reach: `T0`, `ELAPSED_MS`, the samples still to come. -/
def eraseTime (s : State) : State :=
  { s with
    t0 := 0#32
    draws := 0
    ports := { s.ports with timeIn := [] }
    res := { s.res with elapsedMs := 0#32 } }

end Sys2Proof.Machine
end

