-- ==== Sys2Proof/Certificates/Slice0/Obligations.lean ====
section
/-! DEFINITION. The statements for the provers. An equation `exec i s = .next { s with … }` is an
instruction's completion, its result and its frame in one: every field not named, every register, flag, port
and byte of `BUF`, is as in `s`. -/

open Sys2Proof Sys2Proof.Machine

/-! ### Encoding (30_encoding.md) -/

/-- R96, R97: every operation that has an encoding is what its encoding decodes to. -/
def Obligations.DecodeOfEncodeIsTheOperation : Prop :=
  ∀ i : Instr, i.wellFormed = true → i.format ≠ .uop → decode (encode i) = .ok i

/-- R91, R96: no bit of a legal command word is dropped, and each legal word is one command's. -/
def Obligations.EncodeOfDecodedCommandIsTheWord : Prop :=
  ∀ (w : Word) (i : Instr), decodeCmd w = .ok i → i.format = .cmd ∧ encode i = .word w

/-- R96: the six patterns, by their match and mask, and every other word illegal. -/
def Obligations.CommandWordsAreTheSixPatterns : Prop :=
  ∀ w : Word,
    (w &&& 0xFFFFFFFF#32 = 0x01000000#32 → decodeCmd w = .ok .tbuild) ∧
    (w &&& 0xFFFF0000#32 = 0x02000000#32 → decodeCmd w = .ok (.runBlkAll (w.setWidth 16))) ∧
    (w &&& 0xFFFF0000#32 = 0x02010000#32 → decodeCmd w = .ok (.runChAll (w.setWidth 16))) ∧
    (w &&& 0xFFFF0000#32 = 0x02020000#32 → decodeCmd w = .ok (.runBlkNn (w.setWidth 16))) ∧
    (w &&& 0xFFFF0000#32 = 0x02030000#32 → decodeCmd w = .ok (.runChNn (w.setWidth 16))) ∧
    (w &&& 0xFFFC0000#32 = 0x02040000#32 →
      decodeCmd w = .ok (.runRpt (w.getLsbD 17) (w.getLsbD 16) (w.setWidth 16))) ∧
    (w &&& 0xFFFFFFFF#32 ≠ 0x01000000#32 → w &&& 0xFFFF0000#32 ≠ 0x02000000#32 →
      w &&& 0xFFFF0000#32 ≠ 0x02010000#32 → w &&& 0xFFFF0000#32 ≠ 0x02020000#32 →
      w &&& 0xFFFF0000#32 ≠ 0x02030000#32 → w &&& 0xFFFC0000#32 ≠ 0x02040000#32 →
      ∃ e, decodeCmd w = .error e)

/-- 95_test_vectors.md K1 and K2: words of each command, and illegal ones. -/
def Obligations.SampleCommandWordsDecode : Prop :=
  decodeCmd 0x01000000#32 = .ok .tbuild ∧
  decodeCmd 0x0200FFFF#32 = .ok (.runBlkAll 0xFFFF#16) ∧
  decodeCmd 0x020103FF#32 = .ok (.runChAll 0x03FF#16) ∧
  decodeCmd 0x02020000#32 = .ok (.runBlkNn 0#16) ∧
  decodeCmd 0x02030005#32 = .ok (.runChNn 0x0005#16) ∧
  decodeCmd 0x0205FFFF#32 = .ok (.runRpt false true 0xFFFF#16) ∧
  decodeCmd 0x00000000#32 = .error .reservedOpcode ∧
  decodeCmd 0x02080000#32 = .error .reservedBits ∧
  decodeCmd 0x01000001#32 = .error .tbuildOperand

/-- R15, R99: the little-endian assembly of every header field. -/
def Obligations.HeaderFieldsAreLittleEndian : Prop :=
  (∀ b0 b1 : Byte, (le16 [b0, b1] 0).toNat = b0.toNat + 256 * b1.toNat) ∧
  (∀ b0 b1 b2 b3 : Byte, (le32 [b0, b1, b2, b3] 0).toNat =
    b0.toNat + 256 * b1.toNat + 65536 * b2.toNat + 16777216 * b3.toNat) ∧
  (∀ f0 f1 f2 f3 f4 f5 f6 f7 f8 f9 f10 f11 f12 f13 f14 f15 : Byte,
    descriptorOf [f0, f1, f2, f3, f4, f5, f6, f7, f8, f9, f10, f11, f12, f13, f14, f15] =
      { tag := le16 [f0, f1] 0, nch := le16 [f2, f3] 0, rate := le32 [f4, f5, f6, f7] 0,
        brate := le32 [f8, f9, f10, f11] 0, ba := le16 [f12, f13] 0, bits := le16 [f14, f15] 0 })

/-! ### The engine (40_crc_engine.md) -/

/-- R120, delivered in `uopOut` (the model's choice, log 9): `REFLECT` completes; bit `j` of its result is bit
`w-1-j` of the value, 0 from bit `w` on; on a value below `2^w` it undoes itself. -/
def Obligations.ReflectReversesTheLowBits : Prop :=
  ∀ (v : Word) (w : Nat) (s : State), 1 ≤ w → w ≤ 32 →
    ∃ r : Word, exec (.reflect v w) s = .next { s with uopOut := r } ∧
      (∀ j : Nat, r.getLsbD j = (decide (j < w) && v.getLsbD (w - 1 - j))) ∧
      (v.toNat < 2 ^ w → exec (.reflect r w) s = .next { s with uopOut := v })

/-- R121, delivered in `uopOut` (the model's choice, log 9): `TENTRY` completes; its value for every byte is the
entry of the built table, and it is linear over XOR. -/
def Obligations.TentryIsTheTableEntry : Prop :=
  (∀ (b : Byte) (s : State), exec (.tentry b) s = .next { s with uopOut := builtTable.getD b.toNat 0#32 }) ∧
  ∀ a b : Byte, tentry (a ^^^ b) = tentry a ^^^ tentry b

/-- R122: `TBUILD.LOOP` on a machine whose table is not valid writes all 256 entries and `TVALID`; on a valid
table it writes nothing. That the build and the move of `PHASE` and `STEP` after it (R223, R225) are one step, and
`runPending`, which remembers the command that needed the table, are the model's choice (log 3). -/
def Obligations.TableBuildWritesOnlyAnInvalidTable : Prop :=
  ∀ s : State,
    (s.tvalid = false → ∃ t, exec .tbuildLoop s = .next t ∧ t.table.length = 256 ∧
      (∀ b : Byte, t.table.getD b.toNat 0#32 = tentry b) ∧
      t = { s with
        table := t.table, tvalid := true, runPending := false
        phase := if s.runPending then .header else .idle
        step := if s.runPending then 1 else s.step }) ∧
    (s.tvalid = true → exec .tbuildLoop s = .next s)

/-- R128: the built table is the table of the rule, entry by entry, with the rule's two check sums. -/
def Obligations.BuiltTableIsTheListedTable : Prop :=
  builtTable = listedTable ∧ builtTable.foldl (fun x y => x ^^^ y) 0#32 = 0x00000000#32 ∧
    builtTable.foldl (fun x y => x + y) 0#32 = 0xFFFFFF80#32

/-- R123, delivered in `uopOut` (the model's choice, log 9): `CRCUPD` over a valid table. -/
def Obligations.CrcUpdateReadsTheTable : Prop :=
  ∀ (st : Word) (b : Byte) (s : State), s.tvalid = true →
    exec (.crcupd st b) s = .next { s with
      uopOut := (st >>> 8) ^^^ s.table.getD ((st &&& 0xFF#32) ^^^ b.setWidth 32).toNat 0#32 }

/-- R30, R123, U1, with the free value of log entry 8: before the build the entry read is any value, whatever
the stored words are, and everything else is as with a valid table. -/
def Obligations.CrcUpdateBeforeTheBuildIgnoresTheStoredTable : Prop :=
  ∀ (st : Word) (b : Byte) (s : State) (words : List Word), s.tvalid = false →
    ∃ entry : Word, exec (.crcupd st b) s = .next { s with uopOut := (st >>> 8) ^^^ entry } ∧
      exec (.crcupd st b) { s with table := words } =
        .next { s with table := words, uopOut := (st >>> 8) ^^^ entry }

/-- R123: for a fixed byte, `CRCUPD` over the built table loses nothing of the state. -/
def Obligations.CrcUpdateIsInjective : Prop :=
  ∀ (b : Byte) (x y : Word), crcUpd (fun i => builtTable.getD i.toNat 0#32) x b =
    crcUpd (fun i => builtTable.getD i.toNat 0#32) y b → x = y

/-- R125, delivered in `uopOut` (the model's choice, log 9): `CRCFIN` is the complement, applied to a copy. -/
def Obligations.CrcFinalizeIsTheComplement : Prop :=
  ∀ (st : Word) (s : State), exec (.crcfin st) s = .next { s with uopOut := st ^^^ 0xFFFFFFFF#32 } ∧
    exec (.crcfin st) s = .next { s with uopOut := ~~~st }

/-- R130: the check value of "123456789", and the empty input (R125). -/
def Obligations.CrcOfTheCheckString : Prop :=
  crc32 [0x31#8, 0x32#8, 0x33#8, 0x34#8, 0x35#8, 0x36#8, 0x37#8, 0x38#8, 0x39#8] = 0xCBF43926#32 ∧
  crc32 [] = 0#32

/-! ### Commands (45_commands_and_results.md) -/

/-- R223: the `TBUILD` command, accepted: with a valid table it ends in `IDLE` at once, else the table build
is next; the result registers are clear, the mode latch, the stream and everything else untouched. `STATUS` is
`0x00000008` in `IDLE`, and shows `BUSY` alone before the build. `runPending` is the model's own (log 3). -/
def Obligations.TbuildCommandClearsAndBuilds : Prop :=
  ∀ s : State, s.phase.ready = true →
    (s.tvalid = true → ∃ t, exec .tbuild s = .next t ∧ t.status = 0x00000008#32 ∧
      t = { s with
        phase := .idle, res := Results.cleared s.params.nacc, ports := { s.ports with cmd := none } }) ∧
    (s.tvalid = false → ∃ t, exec .tbuild s = .next t ∧ t.status = 0x00000001#32 ∧
      t = { s with
        phase := .tbuild, runPending := false
        res := Results.cleared s.params.nacc, ports := { s.ports with cmd := none } })

/-- R222, R224, R225, R229, R51: a `RUN` command accepted in `IDLE`, `DONE` or `ERR` starts its pass, from a
state that the rules write out; the block and report commands whatever their don't-care bits (R101), the
per-channel commands when no selector is at `NACC` or above. R37: `STATUS` then shows `BUSY`, `TVALID` and the
mode tag, and no other bit. `runPending` (log 3) and the form of the time sample (log 5) are the model's. -/
def Obligations.RunCommandsStartTheirPass : Prop :=
  ∀ (s : State) (chsel : Half), s.phase.ready = true →
    exec (.runBlkAll chsel) s = .next (passStarted false false false chsel s) ∧
    exec (.runBlkNn chsel) s = .next (passStarted false true false chsel s) ∧
    (∀ filt gran, exec (.runRpt filt gran chsel) s = .next (passStarted true filt gran chsel s)) ∧
    ((∀ c, s.params.nacc ≤ c → chsel.getLsbD c = false) →
      exec (.runChAll chsel) s = .next (passStarted false false true chsel s) ∧
      exec (.runChNn chsel) s = .next (passStarted false true true chsel s)) ∧
    (∀ report filt gran, (passStarted report filt gran chsel s).status.toNat =
      1 + 8 * s.tvalid.toNat + 65536 * (4 * report.toNat + 2 * filt.toNat + gran.toNat))

/-- R224, R262: a per-channel command with a selector at `NACC` or above ends in `InvalidChannelSelector` with
the lowest of them; the mode is latched, no stream byte is consumed, no table is built. The form of the time
sample is the model's (log 5). -/
def Obligations.SelectorBeyondTheFileIsRefused : Prop :=
  ∀ (s : State) (chsel : Half) (c : Nat), s.phase.ready = true →
    s.params.nacc ≤ c → chsel.getLsbD c = true →
    (∀ c', s.params.nacc ≤ c' → c' < c → chsel.getLsbD c' = false) →
    ∀ filt : Bool, ∃ t,
      exec (if filt then .runChNn chsel else .runChAll chsel) s = .next t ∧
      t = { raisedState (passStarted false filt true chsel s) 11 0 (s.params.nacc - 1) c with
        step := s.step, runPending := s.runPending }

/-- R221, R295: while the core is busy a command is not accepted: nothing changes (log 14). -/
def Obligations.CommandsWaitWhileBusy : Prop :=
  ∀ (s : State) (i : Instr), i.format = .cmd → s.phase.busy = true → exec i s = .next s

/-- R263: a word that is none of the six patterns ends in `InvalidCommand` with the word in `ERRFOUND`, the mode
tag 0, no stream byte consumed, the mode latch and the table untouched; its class is configuration error. -/
def Obligations.IllegalWordIsInvalidCommand : Prop :=
  ∀ (s : State) (w : Word), s.ports.rst = false → s.phase.ready = true → s.ports.cmd = some w →
    (w >>> 24 ≠ 0x01#32 ∧ w >>> 24 ≠ 0x02#32 ∨ w >>> 24 = 0x02#32 ∧ (w >>> 19) &&& 0x1F#32 ≠ 0#32 ∨
      w >>> 24 = 0x01#32 ∧ w &&& 0xFFFFFF#32 ≠ 0#32) →
    ∃ t, step s = .next t ∧
      t = { s with
        phase := .err
        ports := { s.ports with cmd := none }
        res := { Results.cleared s.params.nacc with errKind := 12#32, errFound := w } } ∧
      t.status = if s.tvalid then 0x0000030C#32 else 0x00000304#32

/-! ### The header (41_header_parser.md) -/

/-- R141 to R145, R149: a step that finds the four bytes it must find goes on to the next step; step 2 goes on
whatever its four bytes are. -/
def Obligations.TagStepsGoOnOverTheirBytes : Prop :=
  ∀ s : State, s.eosf = false →
    (s.ports.inBytes.take 4 = [0x52#8, 0x49#8, 0x46#8, 0x46#8] →
      exec .h1 s = .next { afterRead 4 s with step := 2 }) ∧
    (4 ≤ s.ports.inBytes.length → exec .h2 s = .next { afterRead 4 s with step := 3 }) ∧
    (s.ports.inBytes.take 4 = [0x57#8, 0x41#8, 0x56#8, 0x45#8] →
      exec .h3 s = .next { afterRead 4 s with step := 4 }) ∧
    (s.ports.inBytes.take 4 = [0x66#8, 0x6D#8, 0x74#8, 0x20#8] →
      exec .h4 s = .next { afterRead 4 s with step := 5 }) ∧
    (s.ports.inBytes.take 4 = [0x10#8, 0x00#8, 0x00#8, 0x00#8] →
      exec .h5 s = .next { afterRead 4 s with step := 6 }) ∧
    (s.ports.inBytes.take 4 = [0x64#8, 0x61#8, 0x74#8, 0x61#8] →
      exec .h7 s = .next { afterRead 4 s with step := 8 })

/-- R141 to R149, R252 to R255, R258: a step that finds four other bytes raises its error kind, with the
expected constant, the value found, and nothing read after them. -/
def Obligations.TagStepsRejectOtherBytes : Prop :=
  ∀ (s : State) (b0 b1 b2 b3 : Byte) (rest : List Byte), s.eosf = false →
    s.ports.inBytes = b0 :: b1 :: b2 :: b3 :: rest →
    let found := b0.toNat + 256 * b1.toNat + 65536 * b2.toNat + 16777216 * b3.toNat
    ([b0, b1, b2, b3] ≠ [0x52#8, 0x49#8, 0x46#8, 0x46#8] →
      exec .h1 s = .next (raisedState (afterRead 4 s) 1 1 0x46464952 found)) ∧
    ([b0, b1, b2, b3] ≠ [0x57#8, 0x41#8, 0x56#8, 0x45#8] →
      exec .h3 s = .next (raisedState (afterRead 4 s) 2 3 0x45564157 found)) ∧
    ([b0, b1, b2, b3] ≠ [0x66#8, 0x6D#8, 0x74#8, 0x20#8] →
      exec .h4 s = .next (raisedState (afterRead 4 s) 3 4 0x20746D66 found)) ∧
    ([b0, b1, b2, b3] ≠ [0x10#8, 0x00#8, 0x00#8, 0x00#8] →
      exec .h5 s = .next (raisedState (afterRead 4 s) 4 5 16 found)) ∧
    ([b0, b1, b2, b3] ≠ [0x64#8, 0x61#8, 0x74#8, 0x61#8] →
      exec .h7 s = .next (raisedState (afterRead 4 s) 7 7 0x61746164 found))

/-- R151, R259: a header step that meets the end of the stream raises `TruncatedStream` with the bytes
requested and the bytes obtained; those are consumed. -/
def Obligations.ShortHeaderReadIsTruncatedStream : Prop :=
  ∀ s : State, s.eosf = false → s.ports.inEnd = true →
    (s.ports.inBytes.length < 4 →
      ∀ p ∈ [(Instr.h1, 1), (.h2, 2), (.h3, 3), (.h4, 4), (.h5, 5), (.h7, 7), (.h8, 8)],
        exec p.1 s = .next (raisedState (afterEnd s) 8 p.2 4 s.ports.inBytes.length)) ∧
    (s.ports.inBytes.length < 16 →
      exec .h6 s = .next (raisedState (afterEnd s) 8 6 16 s.ports.inBytes.length))

/-- R63, R298: while the bytes of its read are missing and the end is not signalled, a reading operation
waits: the core has no step. That the bytes of the read already offered are not consumed meanwhile, and `POS`
stays, is the model's choice (log 24). -/
def Obligations.ReadsBlockUntilBytesOrEnd : Prop :=
  ∀ s : State, s.eosf = false → s.ports.inEnd = false →
    (s.ports.inBytes.length < 4 →
      ∀ i ∈ [Instr.h1, .h2, .h3, .h4, .h5, .h7, .h8], exec i s = .next s) ∧
    (s.ports.inBytes.length < 16 → exec .h6 s = .next s) ∧
    (s.ports.inBytes.length < min s.bufsz.toNat s.cnt.rem.toNat → exec .rdbufKnown s = .next s) ∧
    (s.ports.inBytes.length < s.bufsz.toNat → exec .rdbufUnknown s = .next s)

/-- R62, R63: once the end has been seen, a read obtains no byte: a header step raises `TruncatedStream` with
none obtained, a known-size iteration raises `CorruptedFile`, an unknown-size one is the last and empty. -/
def Obligations.AfterTheEndReadsObtainNothing : Prop :=
  ∀ s : State, s.eosf = true →
    (∀ p ∈ [(Instr.h1, 1), (.h2, 2), (.h3, 3), (.h4, 4), (.h5, 5), (.h7, 7), (.h8, 8)],
      exec p.1 s = .next (raisedState s 8 p.2 4 0)) ∧
    exec .h6 s = .next (raisedState s 8 6 16 0) ∧
    (∀ q, q = min s.bufsz.toNat s.cnt.rem.toNat → 0 < q →
      exec .rdbufKnown s = .next (raisedState
        { s with cnt := { s.cnt with req := BitVec.ofNat 32 q, got := 0#32 } } 10 0x009 q 0)) ∧
    (0 < s.bufsz.toNat → s.fmt.ba.toNat ≠ 0 →
      exec .rdbufUnknown s =
        .next { s with cnt := { s.cnt with req := s.bufsz, got := 0#32, last := true } })

/-- R146, R147, R148, R153: step 6 over a valid descriptor, no selected channel missing from the file, writes
the six registers, derives `BPS` and `BUFSZ`, and goes on. -/
def Obligations.ValidDescriptorIsAccepted : Prop :=
  ∀ (s : State) (f : Descriptor), s.eosf = false → 16 ≤ s.ports.inBytes.length →
    f = descriptorOf (s.ports.inBytes.take 16) →
    1 ≤ f.nch.toNat → 0 < f.bits.toNat → f.bits.toNat % 8 = 0 →
    f.ba.toNat = f.bits.toNat / 8 * f.nch.toNat → f.brate.toNat = f.rate.toNat * f.ba.toNat → f.tag = 1#16 →
    (s.mode.report = false → s.mode.gran = true →
      ∀ c, c < s.params.nacc → s.mode.sel.getLsbD c = true → c < f.nch.toNat) →
    exec .h6 s = .next { afterRead 16 s with
      fmt := f
      bps := BitVec.ofNat 16 (f.bits.toNat / 8)
      bufsz := BitVec.ofNat 32 (s.params.bufBlocks * f.ba.toNat)
      step := 7 }

/-- R147, R256, R257: step 6 reports the first condition that fails, in the rule's order, with its sub-cause
and context. -/
def Obligations.InvalidDescriptorIsRejectedInOrder : Prop :=
  ∀ (s u : State) (f : Descriptor), s.eosf = false → 16 ≤ s.ports.inBytes.length →
    f = descriptorOf (s.ports.inBytes.take 16) → u = { afterRead 16 s with fmt := f } →
    let bps := f.bits.toNat / 8
    (f.nch.toNat = 0 → exec .h6 s = .next (raisedState u 5 0x106 1 0)) ∧
    (f.nch.toNat ≠ 0 → (f.bits.toNat = 0 ∨ f.bits.toNat % 8 ≠ 0) →
      exec .h6 s = .next (raisedState u 5 0x206 8 f.bits.toNat)) ∧
    (f.nch.toNat ≠ 0 → f.bits.toNat ≠ 0 → f.bits.toNat % 8 = 0 → f.ba.toNat ≠ bps * f.nch.toNat →
      exec .h6 s = .next (raisedState u 5 0x306 (bps * f.nch.toNat) f.ba.toNat)) ∧
    (f.nch.toNat ≠ 0 → f.bits.toNat ≠ 0 → f.bits.toNat % 8 = 0 → f.ba.toNat = bps * f.nch.toNat →
      f.brate.toNat ≠ f.rate.toNat * f.ba.toNat →
      exec .h6 s = .next (raisedState u 5 0x406 (f.rate.toNat * f.ba.toNat % 2 ^ 32) f.brate.toNat)) ∧
    (f.nch.toNat ≠ 0 → f.bits.toNat ≠ 0 → f.bits.toNat % 8 = 0 → f.ba.toNat = bps * f.nch.toNat →
      f.brate.toNat = f.rate.toNat * f.ba.toNat → f.tag ≠ 1#16 →
      exec .h6 s = .next (raisedState u 6 0x006 1 f.tag.toNat))

/-- R148, R262: a per-channel pass over a file that lacks a selected channel ends at step 6 with the lowest
such index. -/
def Obligations.MissingChannelIsRejectedAtStepSix : Prop :=
  ∀ (s : State) (f : Descriptor) (c : Nat), s.eosf = false → 16 ≤ s.ports.inBytes.length →
    f = descriptorOf (s.ports.inBytes.take 16) → descriptorCheck f = none →
    s.mode.report = false → s.mode.gran = true →
    c < s.params.nacc → s.mode.sel.getLsbD c = true → f.nch.toNat ≤ c →
    (∀ c', c' < c → s.mode.sel.getLsbD c' = true → c' < f.nch.toNat) →
    exec .h6 s = .next (raisedState { afterRead 16 s with fmt := f } 11 0x006 (f.nch.toNat - 1) c)

/-- R150: step 8: a data size of 0 or a multiple of `BA` enters the data phase, any other is
`DataNotAligned`. `primed` is the model's own (log 2). -/
def Obligations.DataSizeMustBeAligned : Prop :=
  ∀ (s u : State) (n : Word), s.eosf = false → 4 ≤ s.ports.inBytes.length →
    n = le32 (s.ports.inBytes.take 4) 0 →
    u = { afterRead 4 s with cnt := { s.cnt with dsize := n } } →
    (n.toNat = 0 ∨ s.fmt.ba.toNat ≠ 0 ∧ n.toNat % s.fmt.ba.toNat = 0 →
      exec .h8 s = .next { u with phase := .data, step := 9, primed := false }) ∧
    (s.fmt.ba.toNat ≠ 0 → n.toNat % s.fmt.ba.toNat ≠ 0 →
      exec .h8 s = .next (raisedState u 9 0x008 s.fmt.ba.toNat n.toNat))

/-! ### The data phase (42_stream_reader.md, 43_accumulation_modes.md) -/

/-- R172, R193: the start of the data phase, and the iteration it continues with. That it is a step of its own is
the model's choice (log 2). -/
def Obligations.DataStartInitialisesTheLoop : Prop :=
  ∀ s : State, s.ports.rst = false → s.phase = .data → s.step = 9 → s.primed = false →
    ∃ t, step s = .next t ∧
      t = { s with
        acc := List.replicate s.params.nacc 0xFFFFFFFF#32
        cnt := { s.cnt with tot := 0#64, rem := s.cnt.dsize, last := false }
        primed := true } ∧
      select t = .perform (if s.cnt.dsize.toNat = 0 then .rdbufUnknown else .rdbufKnown)

/-- R173, R203: an iteration with a known size, the host having delivered the request, a multiple of `BA`: the
bytes go to `BUF[0 .. GOT-1]` and to the accumulators that the mode selects; the bytes of `BUF` from `GOT` on
stay. -/
def Obligations.KnownSizeIterationTakesABuffer : Prop :=
  ∀ (s : State) (q : Nat), s.eosf = false → q = min s.bufsz.toNat s.cnt.rem.toNat →
    q ≤ s.ports.inBytes.length →
    s.fmt.ba.toNat ≠ 0 → s.fmt.ba.toNat = s.bps.toNat * s.fmt.nch.toNat → q % s.fmt.ba.toNat = 0 →
    ∃ t, exec .rdbufKnown s = .next t ∧
      t = { afterRead q s with
        acc := accAfter s (byteAt (s.ports.inBytes.take q)) q
        buf := t.buf
        cnt := { s.cnt with
          req := BitVec.ofNat 32 q, got := BitVec.ofNat 32 q
          tot := s.cnt.tot + BitVec.ofNat 64 q, rem := s.cnt.rem - BitVec.ofNat 32 q } } ∧
      (∀ a, a < q → Memory.read t.buf a = byteAt s.ports.inBytes a) ∧
      (∀ a, q ≤ a → Memory.read t.buf a = Memory.read s.buf a)

/-- R173, R174, R260, R261: a read of the data phase that meets the end of the stream: with a known size it is
`CorruptedFile`, whatever the count; with an unknown size it is `DataNotAligned` where the count is not a
multiple of `BA`. -/
def Obligations.ShortDataReadsRaiseTheirErrors : Prop :=
  ∀ (s : State) (q : Nat), s.eosf = false → s.ports.inEnd = true →
    (q = min s.bufsz.toNat s.cnt.rem.toNat → s.ports.inBytes.length < q →
      exec .rdbufKnown s = .next (raisedState
        { afterEnd s with cnt := { s.cnt with
          req := BitVec.ofNat 32 q, got := BitVec.ofNat 32 s.ports.inBytes.length } }
        10 0x009 q s.ports.inBytes.length)) ∧
    (s.fmt.ba.toNat ≠ 0 → s.ports.inBytes.length < s.bufsz.toNat →
      s.ports.inBytes.length % s.fmt.ba.toNat ≠ 0 →
      exec .rdbufUnknown s = .next (raisedState
        { afterEnd s with cnt := { s.cnt with
          req := s.bufsz, got := BitVec.ofNat 32 s.ports.inBytes.length, last := true } }
        9 0x009 s.fmt.ba.toNat s.ports.inBytes.length))

/-- R174, R203: an iteration with an unknown size: a full buffer goes on, a short one of whole blocks is the
last. -/
def Obligations.UnknownSizeIterationTakesABuffer : Prop :=
  ∀ (s u : State) (r : List Byte), s.eosf = false →
    s.fmt.ba.toNat ≠ 0 → s.fmt.ba.toNat = s.bps.toNat * s.fmt.nch.toNat → r.length % s.fmt.ba.toNat = 0 →
    (s.bufsz.toNat ≤ s.ports.inBytes.length ∧ r = s.ports.inBytes.take s.bufsz.toNat ∧
        u = afterRead s.bufsz.toNat s ∨
      s.ports.inBytes.length < s.bufsz.toNat ∧ s.ports.inEnd = true ∧ r = s.ports.inBytes ∧
        u = afterEnd { s with cnt := { s.cnt with last := true } }) →
    ∃ t, exec .rdbufUnknown s = .next t ∧
      t = { u with
        acc := accAfter s (byteAt r) r.length
        buf := t.buf
        cnt := { u.cnt with
          req := s.bufsz, got := BitVec.ofNat 32 r.length
          tot := s.cnt.tot + BitVec.ofNat 64 r.length } } ∧
      (∀ a, a < r.length → Memory.read t.buf a = byteAt r a) ∧
      (∀ a, r.length ≤ a → Memory.read t.buf a = Memory.read s.buf a)

/-- R203: the accumulation of a buffer is the operation of the mode latch. -/
def Obligations.AccumulateIsTheSelectedOperation : Prop :=
  ∀ s : State,
    (s.mode.report = true → accumulate s = exec .accRpt s) ∧
    (s.mode.report = false → s.mode.gran = false → s.mode.filt = false → accumulate s = exec .accBlkAll s) ∧
    (s.mode.report = false → s.mode.gran = false → s.mode.filt = true → accumulate s = exec .accBlkNn s) ∧
    (s.mode.report = false → s.mode.gran = true → s.mode.filt = false → accumulate s = exec .accChAll s) ∧
    (s.mode.report = false → s.mode.gran = true → s.mode.filt = true → accumulate s = exec .accChNn s)

/-- R196, R197: `ACC.BLK.ALL` feeds every byte of the buffer, in order, to `ACC[0]`; `ACC.BLK.NN` feeds the
non-null samples of its whole blocks, in order, and nothing else. -/
def Obligations.BlockModesFeedTheBlockAccumulator : Prop :=
  ∀ (s : State) (d : List Byte), d = (List.range s.cnt.got.toNat).map (Memory.read s.buf) →
    (s.cnt.got.toNat ≤ s.bufsz.toNat →
      exec .accBlkAll s = .next { s with
        acc := s.acc.set 0 (crcFold (tableRead s) (s.acc.getD 0 0#32) d) }) ∧
    (s.fmt.ba.toNat ≠ 0 → s.fmt.ba.toNat = s.bps.toNat * s.fmt.nch.toNat →
      s.cnt.got.toNat / s.fmt.ba.toNat * s.fmt.ba.toNat ≤ s.bufsz.toNat →
      exec .accBlkNn s = .next { s with
        acc := s.acc.set 0 (crcFold (tableRead s) (s.acc.getD 0 0#32) (nonNullBytes (geometryOf s) d)) })

/-- R14, R31, R60: where `BA = 0`, to which the rules give no quotient, or where a sample lies outside `BUF`, an
operation stops by name; no run from reset gets there (logs 12 and 13). -/
def Obligations.OperationsStopOutsideTheGeometry : Prop :=
  ∀ s : State,
    (s.bufsz.toNat < s.cnt.got.toNat → exec .accBlkAll s = .fault .bufferOverrun) ∧
    (∀ i ∈ [Instr.accBlkNn, .accChAll, .accChNn, .accRpt],
      (s.fmt.ba.toNat = 0 → exec i s = .fault .zeroBlockAlign) ∧
      (s.fmt.ba.toNat ≠ 0 → s.fmt.ba.toNat = s.bps.toNat * s.fmt.nch.toNat →
        s.bufsz.toNat < s.cnt.got.toNat / s.fmt.ba.toNat * s.fmt.ba.toNat → exec i s = .fault .bufferOverrun)) ∧
    (s.eosf = false → s.fmt.ba.toNat = 0 →
      (4 ≤ s.ports.inBytes.length → (le32 (s.ports.inBytes.take 4) 0).toNat ≠ 0 →
        exec .h8 s = .fault .zeroBlockAlign) ∧
      (s.ports.inEnd = true → s.ports.inBytes.length < s.bufsz.toNat →
        exec .rdbufUnknown s = .fault .zeroBlockAlign) ∧
      (min s.bufsz.toNat s.cnt.rem.toNat ≤ s.ports.inBytes.length →
        s.mode.report = true ∨ s.mode.gran = true ∨ s.mode.filt = true →
        exec .rdbufKnown s = .fault .zeroBlockAlign))

/-- R198, R199: the per-channel operations feed each selected channel's samples, all or the non-null ones, to
that channel's accumulator, and change no other accumulator. -/
def Obligations.PerChannelFeedsEachSelectedChannel : Prop :=
  ∀ (s : State) (d : List Byte), s.fmt.ba.toNat ≠ 0 → s.fmt.ba.toNat = s.bps.toNat * s.fmt.nch.toNat →
    s.cnt.got.toNat / s.fmt.ba.toNat * s.fmt.ba.toNat ≤ s.bufsz.toNat →
    s.acc.length = s.params.nacc →
    d = (List.range s.cnt.got.toNat).map (Memory.read s.buf) →
    ∃ all nn : List Word,
      exec .accChAll s = .next { s with acc := all } ∧ exec .accChNn s = .next { s with acc := nn } ∧
      all.length = s.acc.length ∧ nn.length = s.acc.length ∧
      ∀ c, c < s.params.nacc →
        (c < s.fmt.nch.toNat → s.mode.sel.getLsbD c = true →
          all.getD c 0#32 = crcFold (tableRead s) (s.acc.getD c 0#32) (channelBytes (geometryOf s) d c) ∧
          nn.getD c 0#32 = crcFold (tableRead s) (s.acc.getD c 0#32) (channelNonNullBytes (geometryOf s) d c)) ∧
        (s.fmt.nch.toNat ≤ c ∨ s.mode.sel.getLsbD c = false →
          all.getD c 0#32 = s.acc.getD c 0#32 ∧ nn.getD c 0#32 = s.acc.getD c 0#32)

/-- R200: `ACC.RPT` computes its three variants in one traversal and changes no other accumulator. -/
def Obligations.ReportFeedsTheThreeVariants : Prop :=
  ∀ (s : State) (d : List Byte), s.fmt.ba.toNat ≠ 0 → s.fmt.ba.toNat = s.bps.toNat * s.fmt.nch.toNat →
    s.cnt.got.toNat % s.fmt.ba.toNat = 0 → s.cnt.got.toNat ≤ s.bufsz.toNat →
    d = (List.range s.cnt.got.toNat).map (Memory.read s.buf) →
    exec .accRpt s = .next { s with
      acc := ((s.acc.set 0 (crcFold (tableRead s) (s.acc.getD 0 0#32) d)).set 1
        (crcFold (tableRead s) (s.acc.getD 1 0#32) (nonNullBytes (geometryOf s) d))).set 2
        (crcFold (tableRead s) (s.acc.getD 2 0#32) (channelNonNullBytes (geometryOf s) d 0)) }

/-- R191, R204: a sample is null where every byte of it is 0. (a) Over a buffer of whole blocks with no null
sample the no-null operations do what the all-samples ones do; (b) with null samples only they change nothing,
while `ACC.BLK.ALL` feeds `GOT` zero bytes; (c) with one channel, selected, the per-channel operations do what the
block ones do; (d), (e) from equal accumulators `ACC.RPT` leaves the values of `ACC.BLK.ALL`, `ACC.BLK.NN` and
`ACC.CH.NN` of channel 0. -/
def Obligations.NullSamplesDecideTheNoNullModes : Prop :=
  ∀ s : State, s.fmt.ba.toNat ≠ 0 → s.fmt.ba.toNat = s.bps.toNat * s.fmt.nch.toNat →
    s.cnt.got.toNat % s.fmt.ba.toNat = 0 → s.cnt.got.toNat ≤ s.bufsz.toNat →
    let null := fun k c : Nat => ∀ j, j < s.bps.toNat →
      Memory.read s.buf (k * s.fmt.ba.toNat + c * s.bps.toNat + j) = 0#8
    let blocks := s.cnt.got.toNat / s.fmt.ba.toNat
    (∀ k c, isNull (sampleBytes (Memory.read s.buf) s.fmt.ba.toNat s.bps.toNat k c) = true ↔ null k c) ∧
    ((∀ k c, k < blocks → c < s.fmt.nch.toNat → ¬ null k c) →
      exec .accBlkNn s = exec .accBlkAll s ∧ exec .accChNn s = exec .accChAll s) ∧
    ((∀ k c, k < blocks → c < s.fmt.nch.toNat → null k c) →
      exec .accBlkNn s = .next s ∧ exec .accChNn s = .next s ∧
      exec .accBlkAll s = .next { s with
        acc := s.acc.set 0 (crcFold (tableRead s) (s.acc.getD 0 0#32) (List.replicate s.cnt.got.toNat 0#8)) }) ∧
    (s.fmt.nch.toNat = 1 → 0 < s.params.nacc → s.mode.sel.getLsbD 0 = true →
      exec .accChAll s = exec .accBlkAll s ∧ exec .accChNn s = exec .accBlkNn s) ∧
    (3 ≤ s.acc.length → 0 < s.params.nacc → s.mode.sel.getLsbD 0 = true →
      s.acc.getD 1 0#32 = s.acc.getD 0 0#32 → s.acc.getD 2 0#32 = s.acc.getD 0 0#32 →
      ∃ r a n c, exec .accRpt s = .next r ∧ exec .accBlkAll s = .next a ∧ exec .accBlkNn s = .next n ∧
        exec .accChNn s = .next c ∧ r.acc.getD 0 0#32 = a.acc.getD 0 0#32 ∧
        r.acc.getD 1 0#32 = n.acc.getD 0 0#32 ∧ r.acc.getD 2 0#32 = c.acc.getD 0 0#32)

/-- R181: however the data is cut into buffers of whole blocks, the accumulators end the same: two buffers one
after the other, or both as one. -/
def Obligations.AccumulationIgnoresBufferBoundaries : Prop :=
  ∀ (s : State) (d e : List Byte), s.fmt.ba.toNat ≠ 0 →
    s.fmt.ba.toNat = s.bps.toNat * s.fmt.nch.toNat →
    d.length % s.fmt.ba.toNat = 0 → e.length % s.fmt.ba.toNat = 0 →
    accAfter (withAcc s (accAfter s (byteAt d) d.length)) (byteAt e) e.length =
      accAfter s (byteAt (d ++ e)) (d ++ e).length

/-! ### Commit and raise (R230 to R232, R264) -/

/-- R230, R231, R201: the commit of a pass that is not a report pass; R42: `VALID` has no bit from `NACC` on;
R230: its `STATUS`, with the mode tag unchanged. -/
def Obligations.CommitPublishesTheActiveAccumulators : Prop :=
  ∀ s : State, s.mode.report = false →
    ∃ t, exec .commit s = .next t ∧
      t = { s with
        phase := .done
        res := { s.res with
          crc := t.res.crc, valid := t.res.valid
          errKind := 0#32, errStep := 0#32, errExp := 0#32, errFound := 0#32 } } ∧
      t.res.crc.length = s.params.nacc ∧
      (s.tvalid = true → t.status = 0x0000010A#32 ||| s.res.modeTag.setWidth 32 <<< 16) ∧
      (1 ≤ s.params.nacc → s.params.nacc ≤ 16 → ∀ i, s.params.nacc ≤ i → t.res.valid.getLsbD i = false) ∧
      ∀ i, i < s.params.nacc → s.params.nacc ≤ 16 →
        let active := if s.mode.gran then s.mode.sel.getLsbD i else decide (i = 0)
        t.res.valid.getLsbD i = active ∧
        t.res.crc.getD i 0#32 = if active then s.acc.getD i 0#32 ^^^ 0xFFFFFFFF#32 else 0#32

/-- R230, R231, R232: the commit of a report pass, with its extras and its `STATUS`. The form of the time sample
is the model's (log 5). -/
def Obligations.ReportCommitPublishesTheExtras : Prop :=
  ∀ s : State, s.mode.report = true → 3 ≤ s.params.nacc →
    ∃ t, exec .commit s = .next t ∧
      t = { timeAdvance s with
        phase := .done
        res := { s.res with
          crc := t.res.crc, valid := 7#32
          errKind := 0#32, errStep := 0#32, errExp := 0#32, errFound := 0#32
          fmtTag := s.fmt.tag.setWidth 32, fmtNch := s.fmt.nch.setWidth 32
          fmtRate := s.fmt.rate, fmtByteRate := s.fmt.brate
          fmtAlign := s.fmt.ba.setWidth 32, fmtBits := s.fmt.bits.setWidth 32
          totalLo := s.cnt.tot.extractLsb' 0 32, totalHi := s.cnt.tot.extractLsb' 32 32
          elapsedMs := timeSample s - s.t0 } } ∧
      t.res.crc.length = s.params.nacc ∧
      (s.tvalid = true → t.status = 0x0000010A#32 ||| s.res.modeTag.setWidth 32 <<< 16) ∧
      ∀ i, i < s.params.nacc →
        t.res.crc.getD i 0#32 = if i < 3 then s.acc.getD i 0#32 ^^^ 0xFFFFFFFF#32 else 0#32

/-- R264: every raise, its registers, its `STATUS`, and the stop: the core then waits for a command. -/
def Obligations.RaiseWritesTheErrorRegisters : Prop :=
  ∀ (k : ErrKind) (n sub e f : Nat) (s : State), (Instr.raise k n sub e f).wellFormed = true →
    ∃ t, exec (.raise k n sub e f) s = .next t ∧
      t = { s with
        phase := .err
        res := { Results.cleared s.params.nacc with
          modeTag := t.res.modeTag
          errKind := BitVec.ofNat 32 (errCode k), errStep := BitVec.ofNat 32 (n + 256 * sub)
          errExp := BitVec.ofNat 32 (e % 2 ^ 32), errFound := BitVec.ofNat 32 (f % 2 ^ 32) } } ∧
      t.res.modeTag = (if k = .invalidCommand then 0#3 else s.res.modeTag) ∧
      t.status.toNat = 0x4 + 8 * (if s.tvalid then 1 else 0) +
        256 * (if k = .invalidChannelSelector ∨ k = .invalidCommand then 3 else 2) + 65536 * t.res.modeTag.toNat ∧
      (s.ports.rst = false → s.ports.cmd = none → step t = .next t)

/-! ### The step and the sequencer (R24, R170, R175, R220, R282) -/

/-- R220: a step over an offered word that is a command performs that command, whole. -/
def Obligations.StepPerformsTheDecodedCommand : Prop :=
  ∀ (s : State) (w : Word) (i : Instr), s.ports.rst = false → s.phase.ready = true →
    s.ports.cmd = some w → decodeCmd w = .ok i → i.wellFormed = true ∧ step s = exec i s

/-- R140, R170, R175, R282: in a busy phase a step performs the operation that the sequencer's condition
names; in the data phase once the start has been performed, which `primed` remembers (log 2). In `TBUILD` over a
valid table, where no run from reset gets, it goes on as after the build (R223, R225, in the form of log 3). -/
def Obligations.StepPerformsTheSequencedOperation : Prop :=
  ∀ s : State, s.ports.rst = false →
    (s.phase = .tbuild → s.tvalid = false → step s = exec .tbuildLoop s) ∧
    (s.phase = .tbuild → s.tvalid = true → step s = .next { s with
      runPending := false
      phase := if s.runPending then .header else .idle
      step := if s.runPending then 1 else s.step }) ∧
    (s.phase = .header →
      ∀ p ∈ [((1 : Fin 10), Instr.h1), (2, .h2), (3, .h3), (4, .h4), (5, .h5), (6, .h6), (7, .h7), (8, .h8)],
        s.step = p.1 → step s = exec p.2 s) ∧
    (s.phase = .data → s.step = 9 → s.primed = true →
      (0 < s.cnt.dsize.toNat → 0 < s.cnt.rem.toNat → step s = exec .rdbufKnown s) ∧
      (0 < s.cnt.dsize.toNat → s.cnt.rem.toNat = 0 → step s = exec .commit s) ∧
      (s.cnt.dsize.toNat = 0 → s.cnt.last = false → step s = exec .rdbufUnknown s) ∧
      (s.cnt.dsize.toNat = 0 → s.cnt.last = true → step s = exec .commit s))

/-- R24, R140, R282: the phase moves only as the table of transitions says; within the header the step goes up
by one or stays while it waits, with no branching back. -/
def Obligations.PhaseMovesAsTheTableSays : Prop :=
  ∀ s t : State, s.ports.rst = false → step s = .next t →
    phaseMove s.phase t.phase = true ∧
    (s.phase = .header →
      t = s ∨ t.phase = .err ∨ t.phase = .header ∧ t.step.val = s.step.val + 1 ∧ s.step.val < 8 ∨
        t.phase = .data ∧ s.step = 8 ∧ t.step = 9)

/-- R32, R305: once valid, the table is never written again, and `TVALID` is cleared by reset alone. -/
def Obligations.ValidTableIsNeverWritten : Prop :=
  ∀ s t : State, s.ports.rst = false → s.tvalid = true → step s = .next t →
    t.table = s.table ∧ t.tvalid = true

/-- R21, R48, R81, R221, R228: while the core is busy a step takes no command, keeps the mode latch and the
mode tag, and leaves the result registers alone unless it ends the pass. -/
def Obligations.BusyPassKeepsModeAndResults : Prop :=
  ∀ s t : State, s.ports.rst = false → s.phase.busy = true → step s = .next t →
    t.ports.cmd = s.ports.cmd ∧ t.mode = s.mode ∧
    t.res.modeTag = s.res.modeTag ∧ (t.phase ≠ .done → t.phase ≠ .err → t.res = s.res)

/-- R62, R64, R77, R25: a step consumes stream bytes in order and without gaps, and `POS` counts them; only the
acceptance of a command, which consumes none, resets it. R236: it consumes only while `in_ready` is 1. -/
def Obligations.StreamIsConsumedInOrder : Prop :=
  ∀ s t : State, s.ports.rst = false → step s = .next t →
    ∃ k, k ≤ s.ports.inBytes.length ∧ t.ports.inBytes = s.ports.inBytes.drop k ∧
      (0 < k → s.inReady = true) ∧ (s.phase.busy = true → t.pos = s.pos + k) ∧
      (s.phase.busy = false → k = 0 ∧ (t.pos = s.pos ∨ t.pos = 0))

/-! ### Reset, results, the host (R36, R47, R50, R233, R290) -/

/-- R50: what reset leaves, where the rule states it, and that the core then waits for a command. -/
def Obligations.ResetLeavesTheStatedValues : Prop :=
  State.reset.phase = .idle ∧ State.reset.mode.gran = false ∧ State.reset.mode.filt = false ∧
  State.reset.mode.report = false ∧ State.reset.mode.sel = 0#16 ∧ State.reset.pos = 0 ∧
  State.reset.tvalid = false ∧ State.reset.eosf = false ∧ step State.reset = .next State.reset ∧
  ∀ addr, addr ≤ 0xFC → addr % 4 = 0 → readResult State.reset addr = .next 0#32

/-- R290, R292: a step with `rst` asserted abandons everything: the values of R50 in any phase, the host's
port inputs kept, nothing accepted and nothing consumed; that `rst` is a level that acts at a step is the model's
choice (log 16). With `rst` low the outputs follow the state: `cmd_ready` (R221), `done` (R234), and `in_ready`,
1 while a read of at least one byte is next and the end has not been seen (R236, in the form of log 24). -/
def Obligations.ResetAbandonsAnyPass : Prop :=
  ∀ s : State,
    (s.ports.rst = true →
      s.cmdReady = false ∧ s.inReady = false ∧ s.done = false ∧
      ∃ t, step s = .next t ∧ t.phase = .idle ∧ t.tvalid = false ∧ t.eosf = false ∧ t.pos = 0 ∧
        t.mode = { gran := false, filt := false, report := false, sel := 0#16 } ∧
        t.ports = s.ports ∧ t.params = s.params ∧
        ∀ addr, addr ≤ 0xFC → addr % 4 = 0 → readResult t addr = .next 0#32) ∧
    (s.ports.rst = false →
      (s.cmdReady = true ↔ s.phase = .idle ∨ s.phase = .done ∨ s.phase = .err) ∧
      (s.done = true ↔ s.phase = .done ∨ s.phase = .err) ∧
      (s.inReady = true ↔ s.eosf = false ∧
        (s.phase = .header ∧ 1 ≤ s.step.val ∧ s.step.val ≤ 8 ∨
          s.phase = .data ∧ s.step = 9 ∧ s.primed = true ∧ 0 < s.bufsz.toNat ∧
            (0 < s.cnt.dsize.toNat ∧ 0 < s.cnt.rem.toNat ∨ s.cnt.dsize.toNat = 0 ∧ s.cnt.last = false))))

/-- R36, R46, R47, R233: the result registers at their addresses, 0 at every reserved one, and a refusal
outside the file or off a multiple of 4. R37, R268: every bit of `STATUS`, with `OUTCOME` 1 in `DONE`, 2 or 3 in
`ERR` by the error kind, 0 elsewhere. -/
def Obligations.ResultReadsFollowTheRegisterMap : Prop :=
  ∀ s : State, s.params.nacc ≤ 16 →
    readResult s 0x00 = .next s.status ∧ readResult s 0x04 = .next s.res.errKind ∧
    readResult s 0x08 = .next s.res.errStep ∧ readResult s 0x0C = .next s.res.errExp ∧
    readResult s 0x10 = .next s.res.errFound ∧ readResult s 0x14 = .next s.res.valid ∧
    readResult s 0x20 = .next s.res.fmtTag ∧ readResult s 0x24 = .next s.res.fmtNch ∧
    readResult s 0x28 = .next s.res.fmtRate ∧ readResult s 0x2C = .next s.res.fmtByteRate ∧
    readResult s 0x30 = .next s.res.fmtAlign ∧ readResult s 0x34 = .next s.res.fmtBits ∧
    readResult s 0x38 = .next s.res.totalLo ∧ readResult s 0x3C = .next s.res.totalHi ∧
    readResult s 0x40 = .next s.res.elapsedMs ∧
    (∀ i, i < s.params.nacc → readResult s (0x80 + 4 * i) = .next (s.res.crc.getD i 0#32)) ∧
    (∀ a, a % 4 = 0 → a ∈ [0x18, 0x1C] ∨ 0x44 ≤ a ∧ a ≤ 0x7C ∨ 0x80 + 4 * s.params.nacc ≤ a ∧ a ≤ 0xFC →
      readResult s a = .next 0#32) ∧
    (∀ a, 0xFC < a ∨ a % 4 ≠ 0 → readResult s a = .refused .badReadAddress) ∧
    (s.status.getLsbD 0 = true ↔ s.phase = .tbuild ∨ s.phase = .header ∨ s.phase = .data) ∧
    (s.status.getLsbD 1 = true ↔ s.phase = .done) ∧ (s.status.getLsbD 2 = true ↔ s.phase = .err) ∧
    s.status.getLsbD 3 = s.tvalid ∧ s.status.extractLsb' 16 3 = s.res.modeTag ∧
    (∀ i, 4 ≤ i ∧ i ≤ 7 ∨ 10 ≤ i ∧ i ≤ 15 ∨ 19 ≤ i → s.status.getLsbD i = false) ∧
    (s.phase = .done → s.status.extractLsb' 8 2 = 1#2) ∧
    (s.phase = .err → 1 ≤ s.res.errKind.toNat → s.res.errKind.toNat ≤ 10 → s.status.extractLsb' 8 2 = 2#2) ∧
    (s.phase = .err → 11 ≤ s.res.errKind.toNat → s.res.errKind.toNat ≤ 12 → s.status.extractLsb' 8 2 = 3#2) ∧
    (s.phase ≠ .done → s.phase ≠ .err → s.status.extractLsb' 8 2 = 0#2)

/-- R11, R49, R220, R226, R236, R237, U15, U16: the host's moves change the port inputs alone, each of them the
one it drives, and the moves that are host errors are refused. That the inputs stand in State, the stream as the
bytes not yet consumed, is the model's choice (log 4; the withdrawn end is log 26, the time log 5). U15 refuses a
byte together with the end; that a byte after the end is refused too is the model's inference (log 15). -/
def Obligations.HostMovesChangeThePortsAlone : Prop :=
  (∀ (m : HostMove) (s t : State), hostMove m s = .next t → t = { s with ports := t.ports }) ∧
  ∀ (s : State) (w v t : Word) (b : Byte) (eos level : Bool),
    (s.ports.cmd = none →
      hostMove (.offer w) s = .next { s with ports := { s.ports with cmd := some w } }) ∧
    (s.ports.cmd = some w → hostMove (.offer w) s = .next s) ∧
    (s.ports.cmd = some v → w ≠ v → hostMove (.offer w) s = .refused .commandWordChanged) ∧
    hostMove .withdraw s = .next { s with ports := { s.ports with cmd := none } } ∧
    (s.ports.inEnd = false → hostMove (.stream true false b) s =
      .next { s with ports := { s.ports with inBytes := s.ports.inBytes ++ [b] } }) ∧
    (s.ports.inEnd = true → hostMove (.stream true eos b) s = .refused .streamPortConflict) ∧
    hostMove (.stream true true b) s = .refused .streamPortConflict ∧
    hostMove (.stream false true b) s = .next { s with ports := { s.ports with inEnd := true } } ∧
    hostMove (.stream false false b) s = .next s ∧
    hostMove .withdrawEnd s = .next { s with ports := { s.ports with inEnd := false } } ∧
    hostMove .discard s = .next { s with ports := { s.ports with inBytes := [], inEnd := false } } ∧
    hostMove (.time t) s = .next { s with ports := { s.ports with timeIn := s.ports.timeIn ++ [t] } } ∧
    hostMove (.reset level) s = .next { s with ports := { s.ports with rst := level } }

/-! ### Invariants and whole-machine claims -/

/-- The invariant of Safety.lean holds after reset. -/
def Obligations.ResetMeetsTheInvariant : Prop := StateInv State.reset

/-- Every step keeps the invariant of Safety.lean: among others, `BUF` keeps its canonical form, a valid table
is the complete table, `STEP` stays a legal step, the format of a pass stays valid, and the result registers
hold a complete result or a complete error, never both (R12, R30, R32, R24, R155, R176, R266). -/
def Obligations.EveryStepKeepsTheInvariant : Prop := ∀ s t : State, StateInv s → step s = .next t → StateInv t

/-- A state that meets the invariant never stops: no fault, no refusal, whatever the stream holds. -/
def Obligations.InvariantStatesNeverStop : Prop := ∀ (n : Nat) (s : State), StateInv s → RunsSafely n s

/-- R51: no pass reads anything an earlier pass computed except `TABLE` and `TVALID`: two machines that agree
on what is live stay so, whatever else they hold. -/
def Obligations.NothingDeadIsEverRead : Prop :=
  ∀ a b a' : State, StateInv a → StateInv b → AgreeLive a b → step a = .next a' →
    ∃ b', step b = .next b' ∧ AgreeLive a' b'

/-- R276: the time input reaches `T0` and `ELAPSED_MS` and nothing else. -/
def Obligations.TimeReachesElapsedAlone : Prop :=
  ∀ a b a' : State, StateInv a → eraseTime a = eraseTime b → step a = .next a' →
    ∃ b', step b = .next b' ∧ eraseTime a' = eraseTime b'

/-- R173, R175, R178, R180, R201, R205: a pass at the start of its data phase, its size known and its data
delivered, ends `DONE`; each active `CRC[i]` is `crc32` of exactly the bytes that R205 names, and the bytes
after the data chunk stay with the host. -/
def Obligations.KnownSizePassCommitsTheClosedForm : Prop :=
  ∀ (s : State) (d rest : List Byte), StateInv s → s.ports.rst = false → s.phase = .data → s.primed = false →
    s.eosf = false → s.ports.inBytes = d ++ rest → d.length = s.cnt.dsize.toNat → 0 < d.length →
    ∃ n t, Sys2Proof.core.run n s = .next t ∧ t.phase = .done ∧ t.ports.inBytes = rest ∧
      t.res.valid = validWord (activeSet s.params.nacc s.mode) ∧
      ∀ i ∈ activeSet s.params.nacc s.mode,
        t.res.crc.getD i 0#32 = crc32 (hashedBytes s.mode (chunkGeometry s.fmt d) d i)

/-- R174, R175, R178, R201, R205: the same with an unknown size: the data is everything up to the end. -/
def Obligations.UnknownSizePassCommitsTheClosedForm : Prop :=
  ∀ (s : State) (d : List Byte), StateInv s → s.ports.rst = false → s.phase = .data → s.primed = false →
    s.eosf = false → s.cnt.dsize.toNat = 0 → s.ports.inBytes = d → s.ports.inEnd = true →
    d.length % s.fmt.ba.toNat = 0 →
    ∃ n t, Sys2Proof.core.run n s = .next t ∧ t.phase = .done ∧ t.ports.inBytes = [] ∧
      t.res.valid = validWord (activeSet s.params.nacc s.mode) ∧
      ∀ i ∈ activeSet s.params.nacc s.mode,
        t.res.crc.getD i 0#32 = crc32 (hashedBytes s.mode (chunkGeometry s.fmt d) d i)

/-- R12, R73, R205, R222: from any phase that accepts a command, a `RUN` word over a valid file of known size
ends `DONE` with the checksums of its data chunk, whatever the RIFF size says and whatever an earlier pass
left. -/
def Obligations.ValidFileYieldsItsChecksums : Prop :=
  ∀ (s : State) (m : Mode) (f : Descriptor) (riffSize dsize : Word) (d rest : List Byte),
    StateInv s → s.ports.rst = false → s.phase.ready = true →
    s.ports.cmd = some (runWord m.report m.filt m.gran m.sel) →
    (m.report = false → m.gran = true →
      ∀ c, m.sel.getLsbD c = true → c < s.params.nacc ∧ c < f.nch.toNat) →
    descriptorCheck f = none → d.length = dsize.toNat → 0 < d.length → d.length % f.ba.toNat = 0 →
    s.ports.inBytes = headerBytes riffSize f dsize ++ d ++ rest →
    ∃ n t, Sys2Proof.core.run n s = .next t ∧ t.phase = .done ∧ t.ports.inBytes = rest ∧
      t.res.modeTag = modeTagOf m.report m.filt m.gran ∧
      t.res.valid = validWord (activeSet s.params.nacc m) ∧
      ∀ i ∈ activeSet s.params.nacc m,
        t.res.crc.getD i 0#32 = crc32 (hashedBytes m (chunkGeometry f d) d i)
end

