-- ==== Sys2Proof/Laws/Memory.lean ====
section
/-! SUPPORT. The byte memory `BUF`: a read after a load, and the canonical form, which every operation on
it keeps (`Memory.load` is the only one that writes). -/

namespace Sys2Proof.Machine

/-- A list of cells reads as its own bytes where it has them. -/
theorem Memory.read_cells (bs : List Byte) (i a : Nat) (m : Memory) :
    Memory.read (Memory.cells i bs ++ m) a =
      if i ≤ a ∧ a < i + bs.length then
        (if byteAt bs (a - i) = Memory.unlisted then Memory.read m a else byteAt bs (a - i))
      else Memory.read m a := by
  induction bs generalizing i with
  | nil =>
    have h : ¬(i ≤ a ∧ a < i) := by omega
    simp [Memory.cells, h]
  | cons b bs ih =>
    by_cases hb : b = Memory.unlisted
    · simp only [Memory.cells, hb, if_true]
      rw [ih]
      by_cases ha : a = i
      · subst ha
        simp [byteAt]
      · by_cases hr : i + 1 ≤ a ∧ a < i + 1 + bs.length
        · have h2 : i ≤ a ∧ a < i + (b :: bs).length := by simp only [List.length_cons]; omega
          have h3 : a - i = (a - (i + 1)) + 1 := by omega
          rw [hb] at h2
          rw [if_pos hr, if_pos h2, h3]
          simp [byteAt]
        · have h2 : ¬(i ≤ a ∧ a < i + (Memory.unlisted :: bs).length) := by
            simp only [List.length_cons]; omega
          rw [if_neg hr, if_neg h2]
    · simp only [Memory.cells, hb, if_false, List.cons_append, Memory.read]
      by_cases ha : i = a
      · subst ha
        simp [byteAt, hb]
      · rw [if_neg ha, ih]
        by_cases hr : i + 1 ≤ a ∧ a < i + 1 + bs.length
        · have h2 : i ≤ a ∧ a < i + (b :: bs).length := by simp only [List.length_cons]; omega
          have h3 : a - i = (a - (i + 1)) + 1 := by omega
          rw [if_pos hr, if_pos h2, h3]
          simp [byteAt]
        · have h2 : ¬(i ≤ a ∧ a < i + (b :: bs).length) := by simp only [List.length_cons]; omega
          rw [if_neg hr, if_neg h2]

/-- The cells a load keeps read as they did. -/
theorem Memory.read_filter (m : Memory) (n a : Nat) :
    Memory.read (m.filter fun cell => decide (n ≤ cell.1)) a =
      if n ≤ a then Memory.read m a else Memory.unlisted := by
  induction m with
  | nil => simp [Memory.read]
  | cons c m ih =>
    obtain ⟨x, b⟩ := c
    by_cases hx : n ≤ x
    · simp only [List.filter_cons, hx, decide_true, if_true, Memory.read]
      by_cases hxa : x = a
      · subst hxa; simp [hx]
      · simp [hxa, ih]
    · simp only [List.filter_cons, hx, decide_false, Memory.read]
      simp only [Bool.false_eq_true, if_false, ih]
      by_cases hxa : x = a
      · subst hxa; simp [hx]
      · simp [hxa]

/-- A load stores its bytes at `0 .. |r|-1` and leaves every other byte alone. -/
theorem Memory.read_load (m : Memory) (r : List Byte) (a : Nat) :
    Memory.read (Memory.load m r) a = if a < r.length then byteAt r a else Memory.read m a := by
  unfold Memory.load
  rw [Memory.read_cells, Memory.read_filter]
  by_cases h : a < r.length
  · have h2 : 0 ≤ a ∧ a < 0 + r.length := by omega
    have h3 : ¬ r.length ≤ a := by omega
    rw [if_pos h2, if_pos h, if_neg h3]
    split
    · next hb => rw [← hb, Nat.sub_zero]
    · rfl
  · have h2 : ¬(0 ≤ a ∧ a < 0 + r.length) := by omega
    have h3 : r.length ≤ a := by omega
    rw [if_neg h2, if_neg h, if_pos h3]

/-- The canonical form from a higher index on holds from a lower one. -/
theorem Memory.wfFrom_mono {lo hi : Nat} (m : Memory) (h : lo ≤ hi) (hm : Memory.wfFrom hi m = true) :
    Memory.wfFrom lo m = true := by
  cases m with
  | nil => rfl
  | cons c m =>
    obtain ⟨x, b⟩ := c
    simp only [Memory.wfFrom, Bool.and_eq_true, decide_eq_true_eq] at hm ⊢
    exact ⟨⟨by omega, hm.1.2⟩, hm.2⟩

/-- A filter by index keeps the canonical form, from the index it filters by on. -/
theorem Memory.wfFrom_filter (m : Memory) (lo n : Nat) (hm : Memory.wfFrom lo m = true) :
    Memory.wfFrom (max lo n) (m.filter fun cell => decide (n ≤ cell.1)) = true := by
  induction m generalizing lo with
  | nil => rfl
  | cons c m ih =>
    obtain ⟨x, b⟩ := c
    simp only [Memory.wfFrom, Bool.and_eq_true, decide_eq_true_eq] at hm
    have h := ih (x + 1) hm.2
    by_cases hx : n ≤ x
    · simp only [List.filter_cons, hx, decide_true, if_true, Memory.wfFrom, Bool.and_eq_true,
        decide_eq_true_eq]
      refine ⟨⟨by omega, hm.1.2⟩, ?_⟩
      have h2 : max (x + 1) n = x + 1 := by omega
      rwa [h2] at h
    · simp only [List.filter_cons, hx, decide_false, Bool.false_eq_true, if_false]
      exact Memory.wfFrom_mono _ (by omega) h

/-- Cells before a canonical memory make a canonical memory. -/
theorem Memory.wfFrom_cells (bs : List Byte) (i : Nat) (m : Memory)
    (hm : Memory.wfFrom (i + bs.length) m = true) : Memory.wfFrom i (Memory.cells i bs ++ m) = true := by
  induction bs generalizing i with
  | nil => simpa [Memory.cells] using hm
  | cons b bs ih =>
    have h := ih (i + 1) (by rw [List.length_cons] at hm; rwa [show i + 1 + bs.length = i + (bs.length + 1) by omega])
    by_cases hb : b = Memory.unlisted
    · simp only [Memory.cells, hb, if_true]
      exact Memory.wfFrom_mono _ (by omega) h
    · simp [Memory.cells, hb, Memory.wfFrom, h]

/-- Every load gives a canonical memory from a canonical one. -/
theorem Memory.wf_load (m : Memory) (r : List Byte) (hm : Memory.wf m = true) :
    Memory.wf (Memory.load m r) = true := by
  unfold Memory.wf Memory.load
  apply Memory.wfFrom_cells
  have h := Memory.wfFrom_filter m 0 r.length hm
  rw [Nat.zero_max] at h
  rwa [Nat.zero_add]

end Sys2Proof.Machine
end

