-- ==== Sys2Proof/Laws/State.lean ====
section
/-! SUPPORT. One lemma per field for each update of the state: what the update writes, and that it leaves
every other field as it was. -/

namespace Sys2Proof.Machine

/-! ### `raiseErr` -/

@[simp] theorem raiseErr_params (k : ErrKind) (n sub e f : Nat) (s : State) :
    (raiseErr k n sub e f s).params = s.params := rfl

@[simp] theorem raiseErr_phase (k : ErrKind) (n sub e f : Nat) (s : State) :
    (raiseErr k n sub e f s).phase = .err := rfl

@[simp] theorem raiseErr_step (k : ErrKind) (n sub e f : Nat) (s : State) :
    (raiseErr k n sub e f s).step = s.step := rfl

@[simp] theorem raiseErr_mode (k : ErrKind) (n sub e f : Nat) (s : State) :
    (raiseErr k n sub e f s).mode = s.mode := rfl

@[simp] theorem raiseErr_fmt (k : ErrKind) (n sub e f : Nat) (s : State) :
    (raiseErr k n sub e f s).fmt = s.fmt := rfl

@[simp] theorem raiseErr_bps (k : ErrKind) (n sub e f : Nat) (s : State) :
    (raiseErr k n sub e f s).bps = s.bps := rfl

@[simp] theorem raiseErr_bufsz (k : ErrKind) (n sub e f : Nat) (s : State) :
    (raiseErr k n sub e f s).bufsz = s.bufsz := rfl

@[simp] theorem raiseErr_pos (k : ErrKind) (n sub e f : Nat) (s : State) :
    (raiseErr k n sub e f s).pos = s.pos := rfl

@[simp] theorem raiseErr_cnt (k : ErrKind) (n sub e f : Nat) (s : State) :
    (raiseErr k n sub e f s).cnt = s.cnt := rfl

@[simp] theorem raiseErr_acc (k : ErrKind) (n sub e f : Nat) (s : State) :
    (raiseErr k n sub e f s).acc = s.acc := rfl

@[simp] theorem raiseErr_table (k : ErrKind) (n sub e f : Nat) (s : State) :
    (raiseErr k n sub e f s).table = s.table := rfl

@[simp] theorem raiseErr_buf (k : ErrKind) (n sub e f : Nat) (s : State) :
    (raiseErr k n sub e f s).buf = s.buf := rfl

@[simp] theorem raiseErr_tvalid (k : ErrKind) (n sub e f : Nat) (s : State) :
    (raiseErr k n sub e f s).tvalid = s.tvalid := rfl

@[simp] theorem raiseErr_eosf (k : ErrKind) (n sub e f : Nat) (s : State) :
    (raiseErr k n sub e f s).eosf = s.eosf := rfl

@[simp] theorem raiseErr_t0 (k : ErrKind) (n sub e f : Nat) (s : State) :
    (raiseErr k n sub e f s).t0 = s.t0 := rfl

@[simp] theorem raiseErr_ports (k : ErrKind) (n sub e f : Nat) (s : State) :
    (raiseErr k n sub e f s).ports = s.ports := rfl

@[simp] theorem raiseErr_runPending (k : ErrKind) (n sub e f : Nat) (s : State) :
    (raiseErr k n sub e f s).runPending = s.runPending := rfl

@[simp] theorem raiseErr_primed (k : ErrKind) (n sub e f : Nat) (s : State) :
    (raiseErr k n sub e f s).primed = s.primed := rfl

@[simp] theorem raiseErr_uopOut (k : ErrKind) (n sub e f : Nat) (s : State) :
    (raiseErr k n sub e f s).uopOut = s.uopOut := rfl

@[simp] theorem raiseErr_draws (k : ErrKind) (n sub e f : Nat) (s : State) :
    (raiseErr k n sub e f s).draws = s.draws := rfl

/-! ### `acceptClear` -/

@[simp] theorem acceptClear_params (s : State) :
    (acceptClear s).params = s.params := rfl

@[simp] theorem acceptClear_phase (s : State) :
    (acceptClear s).phase = s.phase := rfl

@[simp] theorem acceptClear_step (s : State) :
    (acceptClear s).step = s.step := rfl

@[simp] theorem acceptClear_mode (s : State) :
    (acceptClear s).mode = s.mode := rfl

@[simp] theorem acceptClear_fmt (s : State) :
    (acceptClear s).fmt = s.fmt := rfl

@[simp] theorem acceptClear_bps (s : State) :
    (acceptClear s).bps = s.bps := rfl

@[simp] theorem acceptClear_bufsz (s : State) :
    (acceptClear s).bufsz = s.bufsz := rfl

@[simp] theorem acceptClear_pos (s : State) :
    (acceptClear s).pos = s.pos := rfl

@[simp] theorem acceptClear_cnt (s : State) :
    (acceptClear s).cnt = s.cnt := rfl

@[simp] theorem acceptClear_acc (s : State) :
    (acceptClear s).acc = s.acc := rfl

@[simp] theorem acceptClear_table (s : State) :
    (acceptClear s).table = s.table := rfl

@[simp] theorem acceptClear_buf (s : State) :
    (acceptClear s).buf = s.buf := rfl

@[simp] theorem acceptClear_tvalid (s : State) :
    (acceptClear s).tvalid = s.tvalid := rfl

@[simp] theorem acceptClear_eosf (s : State) :
    (acceptClear s).eosf = s.eosf := rfl

@[simp] theorem acceptClear_t0 (s : State) :
    (acceptClear s).t0 = s.t0 := rfl

@[simp] theorem acceptClear_res (s : State) :
    (acceptClear s).res = Results.cleared s.params.nacc := rfl

@[simp] theorem acceptClear_ports (s : State) :
    (acceptClear s).ports = { s.ports with cmd := none } := rfl

@[simp] theorem acceptClear_runPending (s : State) :
    (acceptClear s).runPending = s.runPending := rfl

@[simp] theorem acceptClear_primed (s : State) :
    (acceptClear s).primed = s.primed := rfl

@[simp] theorem acceptClear_uopOut (s : State) :
    (acceptClear s).uopOut = s.uopOut := rfl

@[simp] theorem acceptClear_draws (s : State) :
    (acceptClear s).draws = s.draws := rfl

/-! ### `withAcc` -/

@[simp] theorem withAcc_params (s : State) (a : List Word) :
    (withAcc s a).params = s.params := rfl

@[simp] theorem withAcc_phase (s : State) (a : List Word) :
    (withAcc s a).phase = s.phase := rfl

@[simp] theorem withAcc_step (s : State) (a : List Word) :
    (withAcc s a).step = s.step := rfl

@[simp] theorem withAcc_mode (s : State) (a : List Word) :
    (withAcc s a).mode = s.mode := rfl

@[simp] theorem withAcc_fmt (s : State) (a : List Word) :
    (withAcc s a).fmt = s.fmt := rfl

@[simp] theorem withAcc_bps (s : State) (a : List Word) :
    (withAcc s a).bps = s.bps := rfl

@[simp] theorem withAcc_bufsz (s : State) (a : List Word) :
    (withAcc s a).bufsz = s.bufsz := rfl

@[simp] theorem withAcc_pos (s : State) (a : List Word) :
    (withAcc s a).pos = s.pos := rfl

@[simp] theorem withAcc_cnt (s : State) (a : List Word) :
    (withAcc s a).cnt = s.cnt := rfl

@[simp] theorem withAcc_acc (s : State) (a : List Word) :
    (withAcc s a).acc = a := rfl

@[simp] theorem withAcc_table (s : State) (a : List Word) :
    (withAcc s a).table = s.table := rfl

@[simp] theorem withAcc_buf (s : State) (a : List Word) :
    (withAcc s a).buf = s.buf := rfl

@[simp] theorem withAcc_tvalid (s : State) (a : List Word) :
    (withAcc s a).tvalid = s.tvalid := rfl

@[simp] theorem withAcc_eosf (s : State) (a : List Word) :
    (withAcc s a).eosf = s.eosf := rfl

@[simp] theorem withAcc_t0 (s : State) (a : List Word) :
    (withAcc s a).t0 = s.t0 := rfl

@[simp] theorem withAcc_res (s : State) (a : List Word) :
    (withAcc s a).res = s.res := rfl

@[simp] theorem withAcc_ports (s : State) (a : List Word) :
    (withAcc s a).ports = s.ports := rfl

@[simp] theorem withAcc_runPending (s : State) (a : List Word) :
    (withAcc s a).runPending = s.runPending := rfl

@[simp] theorem withAcc_primed (s : State) (a : List Word) :
    (withAcc s a).primed = s.primed := rfl

@[simp] theorem withAcc_uopOut (s : State) (a : List Word) :
    (withAcc s a).uopOut = s.uopOut := rfl

@[simp] theorem withAcc_draws (s : State) (a : List Word) :
    (withAcc s a).draws = s.draws := rfl

/-! ### `withPorts` -/

@[simp] theorem withPorts_params (s : State) (p : Ports) :
    (withPorts s p).params = s.params := rfl

@[simp] theorem withPorts_phase (s : State) (p : Ports) :
    (withPorts s p).phase = s.phase := rfl

@[simp] theorem withPorts_step (s : State) (p : Ports) :
    (withPorts s p).step = s.step := rfl

@[simp] theorem withPorts_mode (s : State) (p : Ports) :
    (withPorts s p).mode = s.mode := rfl

@[simp] theorem withPorts_fmt (s : State) (p : Ports) :
    (withPorts s p).fmt = s.fmt := rfl

@[simp] theorem withPorts_bps (s : State) (p : Ports) :
    (withPorts s p).bps = s.bps := rfl

@[simp] theorem withPorts_bufsz (s : State) (p : Ports) :
    (withPorts s p).bufsz = s.bufsz := rfl

@[simp] theorem withPorts_pos (s : State) (p : Ports) :
    (withPorts s p).pos = s.pos := rfl

@[simp] theorem withPorts_cnt (s : State) (p : Ports) :
    (withPorts s p).cnt = s.cnt := rfl

@[simp] theorem withPorts_acc (s : State) (p : Ports) :
    (withPorts s p).acc = s.acc := rfl

@[simp] theorem withPorts_table (s : State) (p : Ports) :
    (withPorts s p).table = s.table := rfl

@[simp] theorem withPorts_buf (s : State) (p : Ports) :
    (withPorts s p).buf = s.buf := rfl

@[simp] theorem withPorts_tvalid (s : State) (p : Ports) :
    (withPorts s p).tvalid = s.tvalid := rfl

@[simp] theorem withPorts_eosf (s : State) (p : Ports) :
    (withPorts s p).eosf = s.eosf := rfl

@[simp] theorem withPorts_t0 (s : State) (p : Ports) :
    (withPorts s p).t0 = s.t0 := rfl

@[simp] theorem withPorts_res (s : State) (p : Ports) :
    (withPorts s p).res = s.res := rfl

@[simp] theorem withPorts_ports (s : State) (p : Ports) :
    (withPorts s p).ports = p := rfl

@[simp] theorem withPorts_runPending (s : State) (p : Ports) :
    (withPorts s p).runPending = s.runPending := rfl

@[simp] theorem withPorts_primed (s : State) (p : Ports) :
    (withPorts s p).primed = s.primed := rfl

@[simp] theorem withPorts_uopOut (s : State) (p : Ports) :
    (withPorts s p).uopOut = s.uopOut := rfl

@[simp] theorem withPorts_draws (s : State) (p : Ports) :
    (withPorts s p).draws = s.draws := rfl

/-! ### `deriveGeometry` -/

@[simp] theorem deriveGeometry_params (s : State) :
    (deriveGeometry s).params = s.params := rfl

@[simp] theorem deriveGeometry_phase (s : State) :
    (deriveGeometry s).phase = s.phase := rfl

@[simp] theorem deriveGeometry_step (s : State) :
    (deriveGeometry s).step = 7 := rfl

@[simp] theorem deriveGeometry_mode (s : State) :
    (deriveGeometry s).mode = s.mode := rfl

@[simp] theorem deriveGeometry_fmt (s : State) :
    (deriveGeometry s).fmt = s.fmt := rfl

@[simp] theorem deriveGeometry_bps (s : State) :
    (deriveGeometry s).bps = BitVec.ofNat 16 (s.fmt.bits.toNat / 8) := rfl

@[simp] theorem deriveGeometry_bufsz (s : State) :
    (deriveGeometry s).bufsz = BitVec.ofNat 32 (s.params.bufBlocks * s.fmt.ba.toNat) := rfl

@[simp] theorem deriveGeometry_pos (s : State) :
    (deriveGeometry s).pos = s.pos := rfl

@[simp] theorem deriveGeometry_cnt (s : State) :
    (deriveGeometry s).cnt = s.cnt := rfl

@[simp] theorem deriveGeometry_acc (s : State) :
    (deriveGeometry s).acc = s.acc := rfl

@[simp] theorem deriveGeometry_table (s : State) :
    (deriveGeometry s).table = s.table := rfl

@[simp] theorem deriveGeometry_buf (s : State) :
    (deriveGeometry s).buf = s.buf := rfl

@[simp] theorem deriveGeometry_tvalid (s : State) :
    (deriveGeometry s).tvalid = s.tvalid := rfl

@[simp] theorem deriveGeometry_eosf (s : State) :
    (deriveGeometry s).eosf = s.eosf := rfl

@[simp] theorem deriveGeometry_t0 (s : State) :
    (deriveGeometry s).t0 = s.t0 := rfl

@[simp] theorem deriveGeometry_res (s : State) :
    (deriveGeometry s).res = s.res := rfl

@[simp] theorem deriveGeometry_ports (s : State) :
    (deriveGeometry s).ports = s.ports := rfl

@[simp] theorem deriveGeometry_runPending (s : State) :
    (deriveGeometry s).runPending = s.runPending := rfl

@[simp] theorem deriveGeometry_primed (s : State) :
    (deriveGeometry s).primed = s.primed := rfl

@[simp] theorem deriveGeometry_uopOut (s : State) :
    (deriveGeometry s).uopOut = s.uopOut := rfl

@[simp] theorem deriveGeometry_draws (s : State) :
    (deriveGeometry s).draws = s.draws := rfl

/-! ### `dataStart` -/

@[simp] theorem dataStart_params (s : State) :
    (dataStart s).params = s.params := rfl

@[simp] theorem dataStart_phase (s : State) :
    (dataStart s).phase = s.phase := rfl

@[simp] theorem dataStart_step (s : State) :
    (dataStart s).step = s.step := rfl

@[simp] theorem dataStart_mode (s : State) :
    (dataStart s).mode = s.mode := rfl

@[simp] theorem dataStart_fmt (s : State) :
    (dataStart s).fmt = s.fmt := rfl

@[simp] theorem dataStart_bps (s : State) :
    (dataStart s).bps = s.bps := rfl

@[simp] theorem dataStart_bufsz (s : State) :
    (dataStart s).bufsz = s.bufsz := rfl

@[simp] theorem dataStart_pos (s : State) :
    (dataStart s).pos = s.pos := rfl

@[simp] theorem dataStart_cnt (s : State) :
    (dataStart s).cnt = { s.cnt with tot := 0#64, rem := s.cnt.dsize, last := false } := rfl

@[simp] theorem dataStart_acc (s : State) :
    (dataStart s).acc = List.replicate s.params.nacc Config.init := rfl

@[simp] theorem dataStart_table (s : State) :
    (dataStart s).table = s.table := rfl

@[simp] theorem dataStart_buf (s : State) :
    (dataStart s).buf = s.buf := rfl

@[simp] theorem dataStart_tvalid (s : State) :
    (dataStart s).tvalid = s.tvalid := rfl

@[simp] theorem dataStart_eosf (s : State) :
    (dataStart s).eosf = s.eosf := rfl

@[simp] theorem dataStart_t0 (s : State) :
    (dataStart s).t0 = s.t0 := rfl

@[simp] theorem dataStart_res (s : State) :
    (dataStart s).res = s.res := rfl

@[simp] theorem dataStart_ports (s : State) :
    (dataStart s).ports = s.ports := rfl

@[simp] theorem dataStart_runPending (s : State) :
    (dataStart s).runPending = s.runPending := rfl

@[simp] theorem dataStart_primed (s : State) :
    (dataStart s).primed = true := rfl

@[simp] theorem dataStart_uopOut (s : State) :
    (dataStart s).uopOut = s.uopOut := rfl

@[simp] theorem dataStart_draws (s : State) :
    (dataStart s).draws = s.draws := rfl

/-! ### `noteRead` -/

@[simp] theorem noteRead_params (q g : Nat) (s : State) :
    (noteRead q g s).params = s.params := rfl

@[simp] theorem noteRead_phase (q g : Nat) (s : State) :
    (noteRead q g s).phase = s.phase := rfl

@[simp] theorem noteRead_step (q g : Nat) (s : State) :
    (noteRead q g s).step = s.step := rfl

@[simp] theorem noteRead_mode (q g : Nat) (s : State) :
    (noteRead q g s).mode = s.mode := rfl

@[simp] theorem noteRead_fmt (q g : Nat) (s : State) :
    (noteRead q g s).fmt = s.fmt := rfl

@[simp] theorem noteRead_bps (q g : Nat) (s : State) :
    (noteRead q g s).bps = s.bps := rfl

@[simp] theorem noteRead_bufsz (q g : Nat) (s : State) :
    (noteRead q g s).bufsz = s.bufsz := rfl

@[simp] theorem noteRead_pos (q g : Nat) (s : State) :
    (noteRead q g s).pos = s.pos := rfl

@[simp] theorem noteRead_cnt (q g : Nat) (s : State) :
    (noteRead q g s).cnt = { s.cnt with req := BitVec.ofNat 32 q, got := BitVec.ofNat 32 g } := rfl

@[simp] theorem noteRead_acc (q g : Nat) (s : State) :
    (noteRead q g s).acc = s.acc := rfl

@[simp] theorem noteRead_table (q g : Nat) (s : State) :
    (noteRead q g s).table = s.table := rfl

@[simp] theorem noteRead_buf (q g : Nat) (s : State) :
    (noteRead q g s).buf = s.buf := rfl

@[simp] theorem noteRead_tvalid (q g : Nat) (s : State) :
    (noteRead q g s).tvalid = s.tvalid := rfl

@[simp] theorem noteRead_eosf (q g : Nat) (s : State) :
    (noteRead q g s).eosf = s.eosf := rfl

@[simp] theorem noteRead_t0 (q g : Nat) (s : State) :
    (noteRead q g s).t0 = s.t0 := rfl

@[simp] theorem noteRead_res (q g : Nat) (s : State) :
    (noteRead q g s).res = s.res := rfl

@[simp] theorem noteRead_ports (q g : Nat) (s : State) :
    (noteRead q g s).ports = s.ports := rfl

@[simp] theorem noteRead_runPending (q g : Nat) (s : State) :
    (noteRead q g s).runPending = s.runPending := rfl

@[simp] theorem noteRead_primed (q g : Nat) (s : State) :
    (noteRead q g s).primed = s.primed := rfl

@[simp] theorem noteRead_uopOut (q g : Nat) (s : State) :
    (noteRead q g s).uopOut = s.uopOut := rfl

@[simp] theorem noteRead_draws (q g : Nat) (s : State) :
    (noteRead q g s).draws = s.draws := rfl

/-! ### `noteLast` -/

@[simp] theorem noteLast_params (s : State) :
    (noteLast s).params = s.params := rfl

@[simp] theorem noteLast_phase (s : State) :
    (noteLast s).phase = s.phase := rfl

@[simp] theorem noteLast_step (s : State) :
    (noteLast s).step = s.step := rfl

@[simp] theorem noteLast_mode (s : State) :
    (noteLast s).mode = s.mode := rfl

@[simp] theorem noteLast_fmt (s : State) :
    (noteLast s).fmt = s.fmt := rfl

@[simp] theorem noteLast_bps (s : State) :
    (noteLast s).bps = s.bps := rfl

@[simp] theorem noteLast_bufsz (s : State) :
    (noteLast s).bufsz = s.bufsz := rfl

@[simp] theorem noteLast_pos (s : State) :
    (noteLast s).pos = s.pos := rfl

@[simp] theorem noteLast_cnt (s : State) :
    (noteLast s).cnt = { s.cnt with last := true } := rfl

@[simp] theorem noteLast_acc (s : State) :
    (noteLast s).acc = s.acc := rfl

@[simp] theorem noteLast_table (s : State) :
    (noteLast s).table = s.table := rfl

@[simp] theorem noteLast_buf (s : State) :
    (noteLast s).buf = s.buf := rfl

@[simp] theorem noteLast_tvalid (s : State) :
    (noteLast s).tvalid = s.tvalid := rfl

@[simp] theorem noteLast_eosf (s : State) :
    (noteLast s).eosf = s.eosf := rfl

@[simp] theorem noteLast_t0 (s : State) :
    (noteLast s).t0 = s.t0 := rfl

@[simp] theorem noteLast_res (s : State) :
    (noteLast s).res = s.res := rfl

@[simp] theorem noteLast_ports (s : State) :
    (noteLast s).ports = s.ports := rfl

@[simp] theorem noteLast_runPending (s : State) :
    (noteLast s).runPending = s.runPending := rfl

@[simp] theorem noteLast_primed (s : State) :
    (noteLast s).primed = s.primed := rfl

@[simp] theorem noteLast_uopOut (s : State) :
    (noteLast s).uopOut = s.uopOut := rfl

@[simp] theorem noteLast_draws (s : State) :
    (noteLast s).draws = s.draws := rfl

/-! ### `spendRem` -/

@[simp] theorem spendRem_params (g : Nat) (s : State) :
    (spendRem g s).params = s.params := rfl

@[simp] theorem spendRem_phase (g : Nat) (s : State) :
    (spendRem g s).phase = s.phase := rfl

@[simp] theorem spendRem_step (g : Nat) (s : State) :
    (spendRem g s).step = s.step := rfl

@[simp] theorem spendRem_mode (g : Nat) (s : State) :
    (spendRem g s).mode = s.mode := rfl

@[simp] theorem spendRem_fmt (g : Nat) (s : State) :
    (spendRem g s).fmt = s.fmt := rfl

@[simp] theorem spendRem_bps (g : Nat) (s : State) :
    (spendRem g s).bps = s.bps := rfl

@[simp] theorem spendRem_bufsz (g : Nat) (s : State) :
    (spendRem g s).bufsz = s.bufsz := rfl

@[simp] theorem spendRem_pos (g : Nat) (s : State) :
    (spendRem g s).pos = s.pos := rfl

@[simp] theorem spendRem_cnt (g : Nat) (s : State) :
    (spendRem g s).cnt = { s.cnt with rem := s.cnt.rem - BitVec.ofNat 32 g } := rfl

@[simp] theorem spendRem_acc (g : Nat) (s : State) :
    (spendRem g s).acc = s.acc := rfl

@[simp] theorem spendRem_table (g : Nat) (s : State) :
    (spendRem g s).table = s.table := rfl

@[simp] theorem spendRem_buf (g : Nat) (s : State) :
    (spendRem g s).buf = s.buf := rfl

@[simp] theorem spendRem_tvalid (g : Nat) (s : State) :
    (spendRem g s).tvalid = s.tvalid := rfl

@[simp] theorem spendRem_eosf (g : Nat) (s : State) :
    (spendRem g s).eosf = s.eosf := rfl

@[simp] theorem spendRem_t0 (g : Nat) (s : State) :
    (spendRem g s).t0 = s.t0 := rfl

@[simp] theorem spendRem_res (g : Nat) (s : State) :
    (spendRem g s).res = s.res := rfl

@[simp] theorem spendRem_ports (g : Nat) (s : State) :
    (spendRem g s).ports = s.ports := rfl

@[simp] theorem spendRem_runPending (g : Nat) (s : State) :
    (spendRem g s).runPending = s.runPending := rfl

@[simp] theorem spendRem_primed (g : Nat) (s : State) :
    (spendRem g s).primed = s.primed := rfl

@[simp] theorem spendRem_uopOut (g : Nat) (s : State) :
    (spendRem g s).uopOut = s.uopOut := rfl

@[simp] theorem spendRem_draws (g : Nat) (s : State) :
    (spendRem g s).draws = s.draws := rfl

/-! ### `commitPlain` -/

@[simp] theorem commitPlain_params (s : State) :
    (commitPlain s).params = s.params := rfl

@[simp] theorem commitPlain_phase (s : State) :
    (commitPlain s).phase = .done := rfl

@[simp] theorem commitPlain_step (s : State) :
    (commitPlain s).step = s.step := rfl

@[simp] theorem commitPlain_mode (s : State) :
    (commitPlain s).mode = s.mode := rfl

@[simp] theorem commitPlain_fmt (s : State) :
    (commitPlain s).fmt = s.fmt := rfl

@[simp] theorem commitPlain_bps (s : State) :
    (commitPlain s).bps = s.bps := rfl

@[simp] theorem commitPlain_bufsz (s : State) :
    (commitPlain s).bufsz = s.bufsz := rfl

@[simp] theorem commitPlain_pos (s : State) :
    (commitPlain s).pos = s.pos := rfl

@[simp] theorem commitPlain_cnt (s : State) :
    (commitPlain s).cnt = s.cnt := rfl

@[simp] theorem commitPlain_acc (s : State) :
    (commitPlain s).acc = s.acc := rfl

@[simp] theorem commitPlain_table (s : State) :
    (commitPlain s).table = s.table := rfl

@[simp] theorem commitPlain_buf (s : State) :
    (commitPlain s).buf = s.buf := rfl

@[simp] theorem commitPlain_tvalid (s : State) :
    (commitPlain s).tvalid = s.tvalid := rfl

@[simp] theorem commitPlain_eosf (s : State) :
    (commitPlain s).eosf = s.eosf := rfl

@[simp] theorem commitPlain_t0 (s : State) :
    (commitPlain s).t0 = s.t0 := rfl

@[simp] theorem commitPlain_ports (s : State) :
    (commitPlain s).ports = s.ports := rfl

@[simp] theorem commitPlain_runPending (s : State) :
    (commitPlain s).runPending = s.runPending := rfl

@[simp] theorem commitPlain_primed (s : State) :
    (commitPlain s).primed = s.primed := rfl

@[simp] theorem commitPlain_uopOut (s : State) :
    (commitPlain s).uopOut = s.uopOut := rfl

@[simp] theorem commitPlain_draws (s : State) :
    (commitPlain s).draws = s.draws := rfl

/-! ### `timeAdvance` -/

@[simp] theorem timeAdvance_params (s : State) :
    (timeAdvance s).params = s.params := by
  unfold timeAdvance; split <;> rfl

@[simp] theorem timeAdvance_phase (s : State) :
    (timeAdvance s).phase = s.phase := by
  unfold timeAdvance; split <;> rfl

@[simp] theorem timeAdvance_step (s : State) :
    (timeAdvance s).step = s.step := by
  unfold timeAdvance; split <;> rfl

@[simp] theorem timeAdvance_mode (s : State) :
    (timeAdvance s).mode = s.mode := by
  unfold timeAdvance; split <;> rfl

@[simp] theorem timeAdvance_fmt (s : State) :
    (timeAdvance s).fmt = s.fmt := by
  unfold timeAdvance; split <;> rfl

@[simp] theorem timeAdvance_bps (s : State) :
    (timeAdvance s).bps = s.bps := by
  unfold timeAdvance; split <;> rfl

@[simp] theorem timeAdvance_bufsz (s : State) :
    (timeAdvance s).bufsz = s.bufsz := by
  unfold timeAdvance; split <;> rfl

@[simp] theorem timeAdvance_pos (s : State) :
    (timeAdvance s).pos = s.pos := by
  unfold timeAdvance; split <;> rfl

@[simp] theorem timeAdvance_cnt (s : State) :
    (timeAdvance s).cnt = s.cnt := by
  unfold timeAdvance; split <;> rfl

@[simp] theorem timeAdvance_acc (s : State) :
    (timeAdvance s).acc = s.acc := by
  unfold timeAdvance; split <;> rfl

@[simp] theorem timeAdvance_table (s : State) :
    (timeAdvance s).table = s.table := by
  unfold timeAdvance; split <;> rfl

@[simp] theorem timeAdvance_buf (s : State) :
    (timeAdvance s).buf = s.buf := by
  unfold timeAdvance; split <;> rfl

@[simp] theorem timeAdvance_tvalid (s : State) :
    (timeAdvance s).tvalid = s.tvalid := by
  unfold timeAdvance; split <;> rfl

@[simp] theorem timeAdvance_eosf (s : State) :
    (timeAdvance s).eosf = s.eosf := by
  unfold timeAdvance; split <;> rfl

@[simp] theorem timeAdvance_t0 (s : State) :
    (timeAdvance s).t0 = s.t0 := by
  unfold timeAdvance; split <;> rfl

@[simp] theorem timeAdvance_res (s : State) :
    (timeAdvance s).res = s.res := by
  unfold timeAdvance; split <;> rfl

@[simp] theorem timeAdvance_runPending (s : State) :
    (timeAdvance s).runPending = s.runPending := by
  unfold timeAdvance; split <;> rfl

@[simp] theorem timeAdvance_primed (s : State) :
    (timeAdvance s).primed = s.primed := by
  unfold timeAdvance; split <;> rfl

@[simp] theorem timeAdvance_uopOut (s : State) :
    (timeAdvance s).uopOut = s.uopOut := by
  unfold timeAdvance; split <;> rfl

/-! ### `startRun` -/

@[simp] theorem startRun_params (s : State) :
    (startRun s).params = s.params := by
  unfold startRun; split <;> rfl

@[simp] theorem startRun_phase (s : State) :
    (startRun s).phase = if s.tvalid then .header else .tbuild := by
  unfold startRun; split <;> simp_all

@[simp] theorem startRun_step (s : State) :
    (startRun s).step = if s.tvalid then 1 else s.step := by
  unfold startRun; split <;> simp_all

@[simp] theorem startRun_mode (s : State) :
    (startRun s).mode = s.mode := by
  unfold startRun; split <;> rfl

@[simp] theorem startRun_fmt (s : State) :
    (startRun s).fmt = s.fmt := by
  unfold startRun; split <;> rfl

@[simp] theorem startRun_bps (s : State) :
    (startRun s).bps = s.bps := by
  unfold startRun; split <;> rfl

@[simp] theorem startRun_bufsz (s : State) :
    (startRun s).bufsz = s.bufsz := by
  unfold startRun; split <;> rfl

@[simp] theorem startRun_pos (s : State) :
    (startRun s).pos = s.pos := by
  unfold startRun; split <;> rfl

@[simp] theorem startRun_cnt (s : State) :
    (startRun s).cnt = s.cnt := by
  unfold startRun; split <;> rfl

@[simp] theorem startRun_acc (s : State) :
    (startRun s).acc = s.acc := by
  unfold startRun; split <;> rfl

@[simp] theorem startRun_table (s : State) :
    (startRun s).table = s.table := by
  unfold startRun; split <;> rfl

@[simp] theorem startRun_buf (s : State) :
    (startRun s).buf = s.buf := by
  unfold startRun; split <;> rfl

@[simp] theorem startRun_tvalid (s : State) :
    (startRun s).tvalid = s.tvalid := by
  unfold startRun; split <;> rfl

@[simp] theorem startRun_eosf (s : State) :
    (startRun s).eosf = s.eosf := by
  unfold startRun; split <;> rfl

@[simp] theorem startRun_t0 (s : State) :
    (startRun s).t0 = s.t0 := by
  unfold startRun; split <;> rfl

@[simp] theorem startRun_res (s : State) :
    (startRun s).res = s.res := by
  unfold startRun; split <;> rfl

@[simp] theorem startRun_ports (s : State) :
    (startRun s).ports = s.ports := by
  unfold startRun; split <;> rfl

@[simp] theorem startRun_runPending (s : State) :
    (startRun s).runPending = if s.tvalid then s.runPending else true := by
  unfold startRun; split <;> simp_all

@[simp] theorem startRun_primed (s : State) :
    (startRun s).primed = s.primed := by
  unfold startRun; split <;> rfl

@[simp] theorem startRun_uopOut (s : State) :
    (startRun s).uopOut = s.uopOut := by
  unfold startRun; split <;> rfl

@[simp] theorem startRun_draws (s : State) :
    (startRun s).draws = s.draws := by
  unfold startRun; split <;> rfl

/-! ### `afterBuild` -/

@[simp] theorem afterBuild_params (s : State) :
    (afterBuild s).params = s.params := rfl

@[simp] theorem afterBuild_phase (s : State) :
    (afterBuild s).phase = if s.runPending then .header else .idle := rfl

@[simp] theorem afterBuild_step (s : State) :
    (afterBuild s).step = if s.runPending then 1 else s.step := rfl

@[simp] theorem afterBuild_mode (s : State) :
    (afterBuild s).mode = s.mode := rfl

@[simp] theorem afterBuild_fmt (s : State) :
    (afterBuild s).fmt = s.fmt := rfl

@[simp] theorem afterBuild_bps (s : State) :
    (afterBuild s).bps = s.bps := rfl

@[simp] theorem afterBuild_bufsz (s : State) :
    (afterBuild s).bufsz = s.bufsz := rfl

@[simp] theorem afterBuild_pos (s : State) :
    (afterBuild s).pos = s.pos := rfl

@[simp] theorem afterBuild_cnt (s : State) :
    (afterBuild s).cnt = s.cnt := rfl

@[simp] theorem afterBuild_acc (s : State) :
    (afterBuild s).acc = s.acc := rfl

@[simp] theorem afterBuild_table (s : State) :
    (afterBuild s).table = s.table := rfl

@[simp] theorem afterBuild_buf (s : State) :
    (afterBuild s).buf = s.buf := rfl

@[simp] theorem afterBuild_tvalid (s : State) :
    (afterBuild s).tvalid = s.tvalid := rfl

@[simp] theorem afterBuild_eosf (s : State) :
    (afterBuild s).eosf = s.eosf := rfl

@[simp] theorem afterBuild_t0 (s : State) :
    (afterBuild s).t0 = s.t0 := rfl

@[simp] theorem afterBuild_res (s : State) :
    (afterBuild s).res = s.res := rfl

@[simp] theorem afterBuild_ports (s : State) :
    (afterBuild s).ports = s.ports := rfl

@[simp] theorem afterBuild_runPending (s : State) :
    (afterBuild s).runPending = false := rfl

@[simp] theorem afterBuild_primed (s : State) :
    (afterBuild s).primed = s.primed := rfl

@[simp] theorem afterBuild_uopOut (s : State) :
    (afterBuild s).uopOut = s.uopOut := rfl

@[simp] theorem afterBuild_draws (s : State) :
    (afterBuild s).draws = s.draws := rfl

/-! ### `tbuildLoop` -/

@[simp] theorem tbuildLoop_params (s : State) :
    (tbuildLoop s).params = s.params := by
  unfold tbuildLoop; split <;> rfl

@[simp] theorem tbuildLoop_phase (s : State) :
    (tbuildLoop s).phase = if s.tvalid then s.phase else if s.runPending then .header else .idle := by
  unfold tbuildLoop; split <;> rfl

@[simp] theorem tbuildLoop_step (s : State) :
    (tbuildLoop s).step = if s.tvalid then s.step else if s.runPending then 1 else s.step := by
  unfold tbuildLoop; split <;> rfl

@[simp] theorem tbuildLoop_mode (s : State) :
    (tbuildLoop s).mode = s.mode := by
  unfold tbuildLoop; split <;> rfl

@[simp] theorem tbuildLoop_fmt (s : State) :
    (tbuildLoop s).fmt = s.fmt := by
  unfold tbuildLoop; split <;> rfl

@[simp] theorem tbuildLoop_bps (s : State) :
    (tbuildLoop s).bps = s.bps := by
  unfold tbuildLoop; split <;> rfl

@[simp] theorem tbuildLoop_bufsz (s : State) :
    (tbuildLoop s).bufsz = s.bufsz := by
  unfold tbuildLoop; split <;> rfl

@[simp] theorem tbuildLoop_pos (s : State) :
    (tbuildLoop s).pos = s.pos := by
  unfold tbuildLoop; split <;> rfl

@[simp] theorem tbuildLoop_cnt (s : State) :
    (tbuildLoop s).cnt = s.cnt := by
  unfold tbuildLoop; split <;> rfl

@[simp] theorem tbuildLoop_acc (s : State) :
    (tbuildLoop s).acc = s.acc := by
  unfold tbuildLoop; split <;> rfl

@[simp] theorem tbuildLoop_table (s : State) :
    (tbuildLoop s).table = if s.tvalid then s.table else builtTable := by
  unfold tbuildLoop; split <;> rfl

@[simp] theorem tbuildLoop_buf (s : State) :
    (tbuildLoop s).buf = s.buf := by
  unfold tbuildLoop; split <;> rfl

@[simp] theorem tbuildLoop_tvalid (s : State) :
    (tbuildLoop s).tvalid = true := by
  unfold tbuildLoop; split <;> simp_all

@[simp] theorem tbuildLoop_eosf (s : State) :
    (tbuildLoop s).eosf = s.eosf := by
  unfold tbuildLoop; split <;> rfl

@[simp] theorem tbuildLoop_t0 (s : State) :
    (tbuildLoop s).t0 = s.t0 := by
  unfold tbuildLoop; split <;> rfl

@[simp] theorem tbuildLoop_res (s : State) :
    (tbuildLoop s).res = s.res := by
  unfold tbuildLoop; split <;> rfl

@[simp] theorem tbuildLoop_ports (s : State) :
    (tbuildLoop s).ports = s.ports := by
  unfold tbuildLoop; split <;> rfl

@[simp] theorem tbuildLoop_runPending (s : State) :
    (tbuildLoop s).runPending = if s.tvalid then s.runPending else false := by
  unfold tbuildLoop; split <;> rfl

@[simp] theorem tbuildLoop_primed (s : State) :
    (tbuildLoop s).primed = s.primed := by
  unfold tbuildLoop; split <;> rfl

@[simp] theorem tbuildLoop_uopOut (s : State) :
    (tbuildLoop s).uopOut = s.uopOut := by
  unfold tbuildLoop; split <;> rfl

@[simp] theorem tbuildLoop_draws (s : State) :
    (tbuildLoop s).draws = s.draws := by
  unfold tbuildLoop; split <;> rfl

/-! ### The result registers after a raise, a commit; the ports after a time sample -/

/-- Every result register after a raise (R264). -/
@[simp] theorem raiseErr_res (k : ErrKind) (n sub e f : Nat) (s : State) :
    (raiseErr k n sub e f s).res = { Results.cleared s.params.nacc with
      modeTag := if k = .invalidCommand then 0#3 else s.res.modeTag
      errKind := BitVec.ofNat 32 (errCode k)
      errStep := errStepWord n sub
      errExp := BitVec.ofNat 32 e
      errFound := BitVec.ofNat 32 f } := rfl

/-- Every result register after a commit without the extras (R230). -/
@[simp] theorem commitPlain_res (s : State) :
    (commitPlain s).res = { s.res with
      crc := committedCrc s.params.nacc (activeSet s.params.nacc s.mode) s.acc
      valid := validWord (activeSet s.params.nacc s.mode)
      errKind := 0#32, errStep := 0#32, errExp := 0#32, errFound := 0#32 } := rfl

/-- A time sample takes at most the first fixed sample off the ports. -/
theorem timeAdvance_ports (s : State) :
    (timeAdvance s).ports = { s.ports with timeIn := s.ports.timeIn.tail } := by
  unfold timeAdvance
  split
  · next h => simp [h]
  · next h => rw [h, List.tail_nil, ← h]

@[simp] theorem timeAdvance_ports_rst (s : State) : (timeAdvance s).ports.rst = s.ports.rst := by
  simp [timeAdvance_ports]

@[simp] theorem timeAdvance_ports_cmd (s : State) : (timeAdvance s).ports.cmd = s.ports.cmd := by
  simp [timeAdvance_ports]

@[simp] theorem timeAdvance_ports_inBytes (s : State) : (timeAdvance s).ports.inBytes = s.ports.inBytes := by
  simp [timeAdvance_ports]

@[simp] theorem timeAdvance_ports_inEnd (s : State) : (timeAdvance s).ports.inEnd = s.ports.inEnd := by
  simp [timeAdvance_ports]

end Sys2Proof.Machine
end

