-- ==== Sys2Proof/Laws/Ops.lean ====
section
/-! SUPPORT. What each shared operation can do, said once: if it answers, then one of these cases. -/

namespace Sys2Proof.Machine

/-! ### `STATUS` -/

/-- Fields put together as R37 places them are read back at their places; the reserved bits are 0. -/
theorem status_layout : ∀ (tag : BitVec 3) (outcome : BitVec 2) (tvalid err done busy : Bool),
    let w : Word := 0#13 ++ tag ++ 0#6 ++ outcome ++ 0#4 ++ BitVec.ofBool tvalid ++ BitVec.ofBool err
      ++ BitVec.ofBool done ++ BitVec.ofBool busy
    w.getLsbD 0 = busy ∧ w.getLsbD 1 = done ∧ w.getLsbD 2 = err ∧ w.getLsbD 3 = tvalid ∧
      w.extractLsb' 16 3 = tag ∧ w.extractLsb' 8 2 = outcome ∧ w &&& 0xFFF8FCF0#32 = 0#32 := by decide +kernel

/-- The fields of `STATUS` (R37). -/
theorem status_fields (s : State) :
    s.status.getLsbD 0 = s.phase.busy ∧ s.status.getLsbD 1 = (s.phase == .done) ∧
      s.status.getLsbD 2 = (s.phase == .err) ∧ s.status.getLsbD 3 = s.tvalid ∧
      s.status.extractLsb' 16 3 = s.res.modeTag ∧ s.status.extractLsb' 8 2 = BitVec.ofNat 2 s.outcome ∧
      s.status &&& 0xFFF8FCF0#32 = 0#32 :=
  status_layout _ _ _ _ _ _

/-! ### The stream -/

/-- A stream read answers in three ways (R62): nothing once the end was seen, all it asked for, or what was
left before the end. -/
theorem streamRead_some {n : Nat} {s s' : State} {r : List Byte} (h : streamRead n s = some (r, s')) :
    (s.eosf = true ∧ r = [] ∧ s' = s) ∨
    (s.eosf = false ∧ n ≤ s.ports.inBytes.length ∧ r = s.ports.inBytes.take n ∧ s' = afterRead n s) ∨
    (s.eosf = false ∧ s.ports.inBytes.length < n ∧ s.ports.inEnd = true ∧ r = s.ports.inBytes ∧
      s' = afterEnd s) := by
  unfold streamRead at h
  split at h
  · next he => simp only [Option.some.injEq, Prod.mk.injEq] at h; exact .inl ⟨he, h.1.symm, h.2.symm⟩
  · next he =>
    have he' : s.eosf = false := by simpa using he
    split at h
    · next hl =>
      simp only [Option.some.injEq, Prod.mk.injEq] at h
      exact .inr (.inl ⟨he', hl, h.1.symm, h.2.symm⟩)
    · next hl =>
      split at h
      · next hend =>
        simp only [Option.some.injEq, Prod.mk.injEq] at h
        exact .inr (.inr ⟨he', by omega, hend, h.1.symm, h.2.symm⟩)
      · exact absurd h (by simp)

/-- A stream read blocks exactly while the bytes are missing and the end is not signalled (R63). -/
theorem streamRead_none {n : Nat} {s : State} :
    streamRead n s = none ↔ s.eosf = false ∧ s.ports.inBytes.length < n ∧ s.ports.inEnd = false := by
  unfold streamRead
  split
  · next h => simp [h]
  · next h =>
    split
    · next hl => simp [Nat.not_lt.mpr hl]
    · next hl =>
      split
      · next he => simp [he]
      · next he =>
        simp only [true_iff]
        exact ⟨by simpa using h, by omega, by simpa using he⟩

/-- A read of bytes the host has delivered. -/
theorem streamRead_full {n : Nat} {s : State} (he : s.eosf = false) (hl : n ≤ s.ports.inBytes.length) :
    streamRead n s = some (s.ports.inBytes.take n, afterRead n s) := by
  simp [streamRead, he, hl, afterRead]

/-- A read that meets the end. -/
theorem streamRead_ended {n : Nat} {s : State} (he : s.eosf = false) (hl : s.ports.inBytes.length < n)
    (hend : s.ports.inEnd = true) : streamRead n s = some (s.ports.inBytes, afterEnd s) := by
  simp [streamRead, he, Nat.not_le.mpr hl, hend, afterEnd]

/-- A read never answers more than it asked for (R62). -/
theorem streamRead_length {n : Nat} {s s' : State} {r : List Byte} (h : streamRead n s = some (r, s')) :
    r.length ≤ n := by
  rcases streamRead_some h with ⟨-, rfl, -⟩ | ⟨-, -, rfl, -⟩ | ⟨-, hl, -, rfl, -⟩
  · simp
  · simp
  · omega

/-- What a read leaves as it was: everything but `POS`, `EOSF` and the stream. -/
theorem streamRead_frame {n : Nat} {s s' : State} {r : List Byte} (h : streamRead n s = some (r, s')) :
    s' = { s with pos := s'.pos, eosf := s'.eosf, ports := { s.ports with inBytes := s'.ports.inBytes } } := by
  rcases streamRead_some h with ⟨-, -, rfl⟩ | ⟨-, -, -, rfl⟩ | ⟨-, -, -, -, rfl⟩ <;> rfl

/-! ### The header read -/

/-- `ReadHdr` and what follows it (R151): it waits, it raises `TruncatedStream`, or the bytes are used. -/
theorem readHdr_next {k n : Nat} {s t : State}
    {use : List Byte → State → Host.Outcome State Fault Refusal} (h : readHdr k n s use = .next t) :
    (streamRead n s = none ∧ t = s) ∨
    (∃ r s', streamRead n s = some (r, s') ∧ r.length < n ∧
      t = raiseErr .truncatedStream k 0 n r.length s') ∨
    (∃ r s', streamRead n s = some (r, s') ∧ r.length = n ∧ use r s' = .next t) := by
  unfold readHdr at h
  split at h
  · next hs => exact .inl ⟨hs, by simpa using h.symm⟩
  · next r s' hs =>
    split at h
    · next hl => exact .inr (.inl ⟨r, s', hs, hl, by simpa using h.symm⟩)
    · next hl =>
      have := streamRead_length hs
      exact .inr (.inr ⟨r, s', hs, by omega, h⟩)

/-- The header read over bytes the host has delivered. -/
theorem readHdr_full {k n : Nat} {s : State} {use : List Byte → State → Host.Outcome State Fault Refusal}
    (he : s.eosf = false) (hl : n ≤ s.ports.inBytes.length) :
    readHdr k n s use = use (s.ports.inBytes.take n) (afterRead n s) := by
  simp [readHdr, streamRead_full he hl, hl]

/-- A tag step (R141, R143, R144, R145, R149): it waits, it raises, or it goes on to the next step. -/
theorem constStep_next {k : Nat} {nx : Fin 10} {e : Word} {kind : ErrKind} {s t : State}
    (h : constStep k nx e kind s = .next t) :
    t = s ∨
    (∃ r s', streamRead 4 s = some (r, s') ∧ r.length < 4 ∧
      t = raiseErr .truncatedStream k 0 4 r.length s') ∨
    (∃ r s', streamRead 4 s = some (r, s') ∧ r.length = 4 ∧ le32 r 0 = e ∧ t = { s' with step := nx }) ∨
    (∃ r s', streamRead 4 s = some (r, s') ∧ r.length = 4 ∧ le32 r 0 ≠ e ∧
      t = raiseErr kind k 0 e.toNat (le32 r 0).toNat s') := by
  rcases readHdr_next h with ⟨-, ht⟩ | hr | ⟨r, s', hs, hl, hu⟩
  · exact .inl ht
  · exact .inr (.inl hr)
  · split at hu
    · next he => exact .inr (.inr (.inl ⟨r, s', hs, hl, he, by simpa using hu.symm⟩))
    · next he => exact .inr (.inr (.inr ⟨r, s', hs, hl, he, by simpa using hu.symm⟩))

/-- A header read always answers a next state when what follows it does. -/
theorem readHdr_total {k n : Nat} {s : State} {use : List Byte → State → Host.Outcome State Fault Refusal}
    (hu : ∀ r s', streamRead n s = some (r, s') → r.length = n → ∃ t, use r s' = .next t) :
    ∃ t, readHdr k n s use = .next t := by
  unfold readHdr
  split
  · exact ⟨_, rfl⟩
  · next r s' hs =>
    split
    · exact ⟨_, rfl⟩
    · next hl =>
      have := streamRead_length hs
      exact hu r s' hs (by omega)

/-- A tag step always answers a next state. -/
theorem constStep_total (k : Nat) (nx : Fin 10) (e : Word) (kind : ErrKind) (s : State) :
    ∃ t, constStep k nx e kind s = .next t := by
  apply readHdr_total
  intro r s' _ _
  by_cases h : le32 r 0 = e
  · exact ⟨_, by rw [if_pos h]⟩
  · exact ⟨_, by rw [if_neg h]⟩

/-- The check of step 6 raises, or derives the geometry of a format that is in order (R147, R148, R153). -/
theorem checkFormat_cases (s : State) :
    (∃ k sub e f, descriptorCheck s.fmt = some (k, sub, e, f) ∧ checkFormat s = raiseErr k 6 sub e f s) ∨
    (∃ c cs, descriptorCheck s.fmt = none ∧ missingChannels s = c :: cs ∧
      checkFormat s = raiseErr .invalidChannelSelector 6 0 (s.fmt.nch.toNat - 1) c s) ∨
    (descriptorCheck s.fmt = none ∧ missingChannels s = [] ∧ checkFormat s = deriveGeometry s) := by
  unfold checkFormat
  split
  · next k sub e f h => exact .inl ⟨k, sub, e, f, h, rfl⟩
  · next h =>
    split
    · next c cs hc => exact .inr (.inl ⟨c, cs, h, hc, rfl⟩)
    · next hc => exact .inr (.inr ⟨h, hc, rfl⟩)

/-- A descriptor passes the validation of R147 exactly when its fields satisfy the five conditions. -/
theorem descriptorCheck_none {f : Descriptor} :
    descriptorCheck f = none ↔
      f.nch.toNat ≠ 0 ∧ f.bits.toNat ≠ 0 ∧ f.bits.toNat % 8 = 0 ∧
      f.ba.toNat = f.bits.toNat / 8 * f.nch.toNat ∧ f.brate.toNat = f.rate.toNat * f.ba.toNat ∧
      f.tag = Config.pcmTag := by
  unfold descriptorCheck
  split
  · next h => simp [h]
  · next h1 =>
    split
    · next h =>
      refine ⟨fun h => absurd h (by simp), fun hh => ?_⟩
      rcases h with h | h
      · exact absurd h hh.2.1
      · exact absurd hh.2.2.1 h
    · next h2 =>
      have h2' := not_or.mp h2
      split
      · next h => exact ⟨fun h => absurd h (by simp), fun hh => absurd hh.2.2.2.1 h⟩
      · next h3 =>
        split
        · next h => exact ⟨fun h => absurd h (by simp), fun hh => absurd hh.2.2.2.2.1 h⟩
        · next h4 =>
          split
          · next h => exact ⟨fun h => absurd h (by simp), fun hh => absurd hh.2.2.2.2.2 h⟩
          · next h5 =>
            simp only [true_iff]
            exact ⟨h1, h2'.1, not_not.mp h2'.2, not_not.mp h3, not_not.mp h4, not_not.mp h5⟩

/-- The check of step 8 (R150): it faults over `BA = 0`, raises `DataNotAligned`, or enters the data phase. -/
theorem checkDataSize_next {s t : State} (h : checkDataSize s = .next t) :
    (s.cnt.dsize.toNat ≠ 0 ∧ s.cnt.dsize.toNat % s.fmt.ba.toNat ≠ 0 ∧
      t = raiseErr .dataNotAligned 8 0 s.fmt.ba.toNat s.cnt.dsize.toNat s) ∨
    (s.cnt.dsize.toNat % s.fmt.ba.toNat = 0 ∧ t = { s with phase := .data, step := 9, primed := false }) := by
  unfold checkDataSize at h
  split at h
  · next h0 => exact .inr ⟨by simp [h0], by simpa using h.symm⟩
  · next h0 =>
    split at h
    · exact absurd h (by simp)
    · split at h
      · next ha => exact .inl ⟨h0, ha, by simpa using h.symm⟩
      · next ha => exact .inr ⟨not_not.mp ha, by simpa using h.symm⟩

/-! ### The commands -/

/-- The acceptance of a `RUN` command (R224, R225): it waits while the core is busy, refuses a channel beyond
the accumulator file, or starts the pass. -/
theorem acceptRun_next {report filt gran : Bool} {chsel : Half} {s t : State}
    (h : acceptRun report filt gran chsel s = .next t) :
    (s.phase.ready = false ∧ t = s) ∨
    (s.phase.ready = true ∧ ∃ c cs, refusedChannels report gran chsel s.params.nacc = c :: cs ∧
      t = raiseErr .invalidChannelSelector 0 0 (s.params.nacc - 1) c
        (latchRun report filt gran chsel (acceptClear s))) ∨
    (s.phase.ready = true ∧ refusedChannels report gran chsel s.params.nacc = [] ∧
      t = startRun (latchRun report filt gran chsel (acceptClear s))) := by
  have hp : (latchRun report filt gran chsel (acceptClear s)).params = s.params := by simp [latchRun]
  unfold acceptRun checkSelectors at h
  split at h
  · next hr =>
    rw [hp] at h
    split at h
    · next c cs hc => exact .inr (.inl ⟨hr, c, cs, hc, by simpa using h.symm⟩)
    · next hc => exact .inr (.inr ⟨hr, hc, by simpa using h.symm⟩)
  · next hr => exact .inl ⟨by simpa using hr, by simpa using h.symm⟩

/-- The `TBUILD` command (R223): it waits, ends in `IDLE`, or goes to the table build. -/
theorem execTbuild_next {s t : State} (h : execTbuild s = .next t) :
    (s.phase.ready = false ∧ t = s) ∨
    (s.phase.ready = true ∧ s.tvalid = true ∧ t = { acceptClear s with phase := .idle }) ∨
    (s.phase.ready = true ∧ s.tvalid = false ∧
      t = { acceptClear s with phase := .tbuild, runPending := false }) := by
  unfold execTbuild at h
  split at h
  · next hr =>
    split at h
    · next hv => exact .inr (.inl ⟨hr, hv, by simpa using h.symm⟩)
    · next hv => exact .inr (.inr ⟨hr, by simpa using hv, by simpa using h.symm⟩)
  · next hr => exact .inl ⟨by simpa using hr, by simpa using h.symm⟩

/-! ### The data phase -/

/-- An accumulation over samples writes the accumulators alone. -/
theorem accSamples_next {s t : State} {after : Geometry → List Word} (h : accSamples s after = .next t) :
    s.fmt.ba.toNat ≠ 0 ∧ samplesInside (geometryOf s) s.bufsz.toNat = true ∧
      t = withAcc s (after (geometryOf s)) := by
  unfold accSamples at h
  split at h
  · exact absurd h (by simp)
  · next hb =>
    split at h
    · next hi => exact ⟨hb, hi, by simpa using h.symm⟩
    · exact absurd h (by simp)

/-- The accumulation that R203 selects writes the accumulators alone, with the values of `accAfter`. -/
theorem accumulate_next {s t : State} (h : accumulate s = .next t) :
    t = withAcc s (accAfter s (Memory.read s.buf) s.cnt.got.toNat) := by
  unfold accumulate at h
  unfold accAfter
  cases hm : accOpOf s.mode <;> simp only [hm] at h ⊢
  case blkAll =>
    unfold accBlkAll at h
    split at h
    · simpa using h.symm
    · exact absurd h (by simp)
  all_goals exact (accSamples_next h).2.2

/-- Storing and accumulating a buffer (R173, R174). -/
theorem takeBuffer_next {r : List Byte} {s t : State} (h : takeBuffer r s = .next t) :
    ∃ u, accumulate { s with buf := Memory.load s.buf r } = .next u ∧
      t = { u with cnt := { u.cnt with tot := u.cnt.tot + BitVec.ofNat 64 r.length } } := by
  unfold takeBuffer at h
  split at h
  · next u hu => exact ⟨u, hu, by simpa using h.symm⟩
  · exact absurd h (by simp)
  · exact absurd h (by simp)

/-- One iteration with a known size (R173): it waits, raises `CorruptedFile`, or takes a full buffer. -/
theorem execRdbufKnown_next {s t : State} (h : execRdbufKnown s = .next t) :
    (streamRead (knownRequest s) s = none ∧ t = s) ∨
    (∃ r s', streamRead (knownRequest s) s = some (r, s') ∧ r.length < knownRequest s ∧
      t = raiseErr .corruptedFile 9 0 (knownRequest s) r.length
        (noteRead (knownRequest s) r.length s')) ∨
    (∃ r s' u, streamRead (knownRequest s) s = some (r, s') ∧ r.length = knownRequest s ∧
      takeBuffer r (noteRead (knownRequest s) r.length s') = .next u ∧ t = spendRem r.length u) := by
  unfold execRdbufKnown at h
  split at h
  · next hs => exact .inl ⟨hs, by simpa using h.symm⟩
  · next r s' hs =>
    have hle := streamRead_length hs
    split at h
    · next hl => exact .inr (.inl ⟨r, s', hs, hl, by simpa using h.symm⟩)
    · next hl =>
      split at h
      · next u hu => exact .inr (.inr ⟨r, s', u, hs, by omega, hu, by simpa using h.symm⟩)
      · exact absurd h (by simp)
      · exact absurd h (by simp)

/-- One iteration with an unknown size (R174): it waits, raises `DataNotAligned`, takes the last buffer, or
takes a full one. -/
theorem execRdbufUnknown_next {s t : State} (h : execRdbufUnknown s = .next t) :
    (streamRead s.bufsz.toNat s = none ∧ t = s) ∨
    (∃ r s', streamRead s.bufsz.toNat s = some (r, s') ∧ r.length < s.bufsz.toNat ∧
      r.length % s.fmt.ba.toNat ≠ 0 ∧
      t = raiseErr .dataNotAligned 9 0 s.fmt.ba.toNat r.length
        (noteLast (noteRead s.bufsz.toNat r.length s'))) ∨
    (∃ r s', streamRead s.bufsz.toNat s = some (r, s') ∧ r.length < s.bufsz.toNat ∧
      r.length % s.fmt.ba.toNat = 0 ∧
      takeBuffer r (noteLast (noteRead s.bufsz.toNat r.length s')) = .next t) ∨
    (∃ r s', streamRead s.bufsz.toNat s = some (r, s') ∧ r.length = s.bufsz.toNat ∧
      takeBuffer r (noteRead s.bufsz.toNat r.length s') = .next t) := by
  unfold execRdbufUnknown at h
  split at h
  · next hs => exact .inl ⟨hs, by simpa using h.symm⟩
  · next r s' hs =>
    have hle := streamRead_length hs
    split at h
    · next hl =>
      split at h
      · exact absurd h (by simp)
      · split at h
        · next hm => exact .inr (.inl ⟨r, s', hs, hl, hm, by simpa using h.symm⟩)
        · next hm => exact .inr (.inr (.inl ⟨r, s', hs, hl, not_not.mp hm, h⟩))
    · next hl => exact .inr (.inr (.inr ⟨r, s', hs, by omega, h⟩))

/-! ### The step -/

/-- What a step can do (R282, R290): hold the reset, wait, perform the selected operation, reject a word,
start the data phase, or go on after the table build. -/
theorem step_next {s t : State} (h : step s = .next t) :
    (s.ports.rst = true ∧ t = resetCore s) ∨
    (s.ports.rst = false ∧ select s = .wait ∧ t = s) ∨
    (∃ i, s.ports.rst = false ∧ select s = .perform i ∧ exec i s = .next t) ∨
    (∃ w, s.ports.rst = false ∧ select s = .illegal w ∧ t = acceptIllegal w s) ∨
    (s.ports.rst = false ∧ select s = .dataStart ∧ t = dataStart s) ∨
    (s.ports.rst = false ∧ select s = .buildDone ∧ t = afterBuild s) := by
  unfold step at h
  split at h
  · next hr => exact .inl ⟨hr, by simpa using h.symm⟩
  · next hr =>
    have hr' : s.ports.rst = false := by simpa using hr
    split at h
    · next hs => exact .inr (.inl ⟨hr', hs, by simpa using h.symm⟩)
    · next i hs => exact .inr (.inr (.inl ⟨i, hr', hs, h⟩))
    · next w hs => exact .inr (.inr (.inr (.inl ⟨w, hr', hs, by simpa using h.symm⟩)))
    · next hs => exact .inr (.inr (.inr (.inr (.inl ⟨hr', hs, by simpa using h.symm⟩))))
    · next hs => exact .inr (.inr (.inr (.inr (.inr ⟨hr', hs, by simpa using h.symm⟩))))
    · exact absurd h (by simp)

/-- A host move changes the ports alone. -/
theorem hostMove_next {m : HostMove} {s t : State} (h : hostMove m s = .next t) :
    ∃ p, t = withPorts s p := by
  cases m <;> simp only [hostMove] at h
  case offer w =>
    split at h
    · exact ⟨_, by simpa using h.symm⟩
    · split at h
      · exact ⟨s.ports, by simpa [withPorts] using h.symm⟩
      · exact absurd h (by simp)
  case stream v e d =>
    split at h
    · split at h
      · exact absurd h (by simp)
      · exact ⟨_, by simpa using h.symm⟩
    · split at h
      · exact ⟨_, by simpa using h.symm⟩
      · exact ⟨s.ports, by simpa [withPorts] using h.symm⟩
  all_goals exact ⟨_, by simpa using h.symm⟩

end Sys2Proof.Machine
end

