-- ==== Sys2Proof/Laws/Accumulate.lean ====
section
/-! SUPPORT. The accumulation operations: what they depend on, what they keep, and that over a format in order
they always answer (R190, R196 to R200, R203). -/

namespace Sys2Proof.Machine

/-- Two folds whose functions agree on the list are equal. -/
theorem foldl_eq_of_agree {α β : Type} (l : List α) {f g : β → α → β} (b : β) (h : ∀ x ∈ l, ∀ b, f b x = g b x) :
    l.foldl f b = l.foldl g b := by
  induction l generalizing b with
  | nil => rfl
  | cons a l ih =>
    simp only [List.foldl_cons]
    rw [h a (by simp)]
    exact ih _ fun x hx b => h x (by simp [hx]) b

/-- Two visits that agree on every sample of the buffer accumulate the same. -/
theorem overSamples_eq_of_agree {blocks nch : Nat} {f g : List Word → Nat → Nat → List Word} {acc : List Word}
    (h : ∀ k c a, k < blocks → c < nch → f a k c = g a k c) :
    overSamples blocks nch f acc = overSamples blocks nch g acc := by
  unfold overSamples
  refine foldl_eq_of_agree _ _ fun k hk b => ?_
  exact foldl_eq_of_agree _ _ fun c hc b => h k c b (by simpa using hk) (by simpa using hc)

/-- A visit that keeps the number of accumulators keeps it over a whole buffer. -/
theorem overSamples_length {blocks nch : Nat} {f : List Word → Nat → Nat → List Word} (acc : List Word)
    (h : ∀ a k c, (f a k c).length = a.length) : (overSamples blocks nch f acc).length = acc.length := by
  unfold overSamples
  generalize List.range blocks = l
  induction l generalizing acc with
  | nil => rfl
  | cons k l ih =>
    rw [List.foldl_cons, ih]
    generalize List.range nch = m
    induction m generalizing acc with
    | nil => rfl
    | cons c m ih2 => rw [List.foldl_cons, ih2, h]

/-- The null test (R191): every byte is 0. -/
theorem isNull_iff (sample : List Byte) : isNull sample = true ↔ ∀ b ∈ sample, b = 0#8 := by simp [isNull]

/-- A fold over two runs of bytes is a fold over one after the other. -/
theorem crcFold_append (tab : Byte → Word) (st : Word) (a b : List Byte) :
    crcFold tab st (a ++ b) = crcFold tab (crcFold tab st a) b := by simp [crcFold]

/-- A feed keeps the number of accumulators. -/
@[simp] theorem feed_length (tab : Byte → Word) (acc : List Word) (i : Nat) (m : List Byte) :
    (feed tab acc i m).length = acc.length := by simp [feed]

/-- A feed of no bytes changes nothing. -/
@[simp] theorem feed_nil (tab : Byte → Word) (acc : List Word) (i : Nat) : feed tab acc i [] = acc := by
  simp only [feed, crcFold, List.foldl_nil]
  by_cases h : i < acc.length
  · rw [List.getD_eq_getElem _ _ h, List.set_getElem_self]
  · rw [List.set_eq_of_length_le (by omega)]

/-- A feed leaves every other accumulator as it is. -/
theorem feed_getD_ne (tab : Byte → Word) (acc : List Word) {i j : Nat} (m : List Byte) (h : i ≠ j) :
    (feed tab acc i m).getD j 0#32 = acc.getD j 0#32 := by simp [feed, h]

/-- A feed folds its bytes into its accumulator. -/
theorem feed_getD_self (tab : Byte → Word) (acc : List Word) {i : Nat} (m : List Byte) (h : i < acc.length) :
    (feed tab acc i m).getD i 0#32 = crcFold tab (acc.getD i 0#32) m := by simp [feed, h]

/-- A feed of two runs of bytes is two feeds. -/
theorem feed_append (tab : Byte → Word) (acc : List Word) (i : Nat) (a b : List Byte) :
    feed tab acc i (a ++ b) = feed tab (feed tab acc i a) i b := by
  by_cases h : i < acc.length
  · simp [feed, crcFold_append, h]
  · simp [feed, List.set_eq_of_length_le (Nat.le_of_not_lt h)]

/-- Feeds of one accumulator in a row are one feed of all their bytes. -/
theorem foldl_feed (tab : Byte → Word) (i : Nat) (f : Nat → List Byte) (l : List Nat) (acc : List Word) :
    l.foldl (fun a k => feed tab a i (f k)) acc = feed tab acc i (l.flatMap f) := by
  induction l generalizing acc with
  | nil => simp
  | cons k l ih => rw [List.foldl_cons, ih, List.flatMap_cons, feed_append]

/-- A traversal that feeds every sample to one accumulator is one feed of their concatenation. -/
theorem overSamples_feed (tab : Byte → Word) (i blocks nch : Nat) (f : Nat → Nat → List Byte) (acc : List Word) :
    overSamples blocks nch (fun a k c => feed tab a i (f k c)) acc =
      feed tab acc i ((List.range blocks).flatMap fun k => (List.range nch).flatMap (f k)) := by
  unfold overSamples
  simp only [foldl_feed]

/-- A relation that every visit keeps holds after two traversals. -/
theorem overSamples_rel (P : List Word → List Word → Prop) {blocks nch : Nat}
    {f g : List Word → Nat → Nat → List Word} {a b : List Word} (h : P a b)
    (hs : ∀ a b k c, P a b → P (f a k c) (g b k c)) : P (overSamples blocks nch f a) (overSamples blocks nch g b) := by
  unfold overSamples
  generalize List.range blocks = l
  induction l generalizing a b with
  | nil => exact h
  | cons k l ih =>
    refine ih ?_
    generalize List.range nch = m
    induction m generalizing a b with
    | nil => exact h
    | cons c m ih2 => exact ih2 (hs _ _ _ _ h)

/-- Every accumulation keeps the number of accumulators (R28). -/
theorem accAfter_length (s : State) (rd : Nat → Byte) (got : Nat) : (accAfter s rd got).length = s.acc.length := by
  unfold accAfter
  cases accOpOf s.mode
  case blkAll => simp [blkAllAcc]
  case rpt =>
    refine overSamples_length _ fun a k c => ?_
    simp only []
    split
    · simp
    · split <;> simp
  all_goals
    refine overSamples_length _ fun a k c => ?_
    simp only []
    split <;> simp

/-- Every byte of a sample lies inside the whole blocks of the buffer (R190). -/
theorem sample_index_lt {ba bps nch k c j blocks : Nat} (hba : ba = bps * nch) (hk : k < blocks) (hc : c < nch)
    (hj : j < bps) : k * ba + c * bps + j < blocks * ba := by
  have h1 : c * bps + j < nch * bps := by
    calc c * bps + j < (c + 1) * bps := by rw [Nat.succ_mul]; omega
      _ ≤ nch * bps := Nat.mul_le_mul_right _ hc
  have h2 : (k + 1) * ba ≤ blocks * ba := Nat.mul_le_mul_right _ hk
  rw [Nat.succ_mul] at h2
  have h3 : nch * bps = ba := by rw [hba, Nat.mul_comm]
  omega

/-- A sample depends on the bytes of the whole blocks alone. -/
theorem sampleBytes_eq_of_agree {rd rd' : Nat → Byte} {ba bps nch k c blocks : Nat} (hba : ba = bps * nch)
    (hk : k < blocks) (hc : c < nch) (h : ∀ i, i < blocks * ba → rd i = rd' i) :
    sampleBytes rd ba bps k c = sampleBytes rd' ba bps k c :=
  List.map_congr_left fun _ hj => h _ (sample_index_lt hba hk hc (by simpa using hj))

/-- An accumulation depends on the bytes below `GOT` alone: the stale bytes of `BUF` are not read (R31, U4). -/
theorem accAfter_eq_of_agree {s : State} {rd rd' : Nat → Byte} {got : Nat}
    (hba : s.fmt.ba.toNat = s.bps.toNat * s.fmt.nch.toNat) (h : ∀ i, i < got → rd i = rd' i) :
    accAfter s rd got = accAfter s rd' got := by
  have hs : ∀ k c, k < got / s.fmt.ba.toNat → c < s.fmt.nch.toNat →
      sampleBytes rd s.fmt.ba.toNat s.bps.toNat k c = sampleBytes rd' s.fmt.ba.toNat s.bps.toNat k c :=
    fun k c hk hc => sampleBytes_eq_of_agree hba hk hc fun i hi =>
      h i (Nat.lt_of_lt_of_le hi (Nat.div_mul_le_self _ _))
  unfold accAfter
  cases accOpOf s.mode
  case blkAll =>
    simp only [blkAllAcc]
    congr 1
    exact List.map_congr_left fun a ha => h a (by simpa using ha)
  all_goals
    refine overSamples_eq_of_agree fun k c a hk hc => ?_
    simp only [hs k c hk hc]

/-- The samples of a buffer no longer than `BUFSZ` lie inside `BUF`. -/
theorem samplesInside_of_le {got ba bps nch bufsz : Nat} (hba : ba = bps * nch) (hg : got ≤ bufsz) :
    samplesInside { blocks := got / ba, ba := ba, bps := bps, nch := nch } bufsz = true := by
  unfold samplesInside
  by_cases hb : got / ba = 0
  · simp [hb]
  · simp only [Bool.or_eq_true, decide_eq_true_eq]
    right
    have h1 : (got / ba - 1) * ba + ba = got / ba * ba := by
      rw [← Nat.succ_mul]
      congr 1
      exact Nat.succ_pred_eq_of_pos (Nat.pos_of_ne_zero hb)
    have h2 := Nat.div_mul_le_self got ba
    have h3 : nch * bps = ba := by rw [hba, Nat.mul_comm]
    omega

/-- Over a format in order and a buffer no longer than `BUFSZ`, the selected accumulation answers. -/
theorem accumulate_eq {s : State} (h0 : s.fmt.ba.toNat ≠ 0)
    (hba : s.fmt.ba.toNat = s.bps.toNat * s.fmt.nch.toNat) (hg : s.cnt.got.toNat ≤ s.bufsz.toNat) :
    accumulate s = .next (withAcc s (accAfter s (Memory.read s.buf) s.cnt.got.toNat)) := by
  have hi : samplesInside (geometryOf s) s.bufsz.toNat = true := samplesInside_of_le hba hg
  obtain ⟨t, ht⟩ : ∃ t, accumulate s = .next t := by
    unfold accumulate
    cases accOpOf s.mode <;> simp [accBlkAll, accBlkNn, accChAll, accChNn, accRpt, accSamples, h0, hi, hg]
  rw [ht, accumulate_next ht]

/-- Over a format in order, a buffer is stored and accumulated (R173, R174). -/
theorem takeBuffer_eq {s : State} {r : List Byte} (h0 : s.fmt.ba.toNat ≠ 0)
    (hba : s.fmt.ba.toNat = s.bps.toNat * s.fmt.nch.toNat) (hg : s.cnt.got.toNat ≤ s.bufsz.toNat)
    (hr : s.cnt.got.toNat = r.length) :
    takeBuffer r s = .next { s with
      buf := Memory.load s.buf r
      acc := accAfter s (byteAt r) r.length
      cnt := { s.cnt with tot := s.cnt.tot + BitVec.ofNat 64 r.length } } := by
  have e : accAfter { s with buf := Memory.load s.buf r } (Memory.read (Memory.load s.buf r)) s.cnt.got.toNat =
      accAfter s (byteAt r) r.length := by
    rw [accAfter_eq_of_agree (s := { s with buf := Memory.load s.buf r }) (rd' := byteAt r) hba
      (fun i hi => by rw [Memory.read_load, if_pos (by omega)]), hr]
    rfl
  unfold takeBuffer
  rw [accumulate_eq (s := { s with buf := Memory.load s.buf r }) h0 hba hg]
  simp only [withAcc]
  rw [e]

/-- What a format in order says of the derived geometry (R153, R155, R171). -/
theorem FormatOk.geometry {s : State} (hp : s.params.Wf) (h : FormatOk s) :
    s.fmt.ba.toNat ≠ 0 ∧ s.fmt.ba.toNat = s.bps.toNat * s.fmt.nch.toNat ∧
      s.bufsz.toNat = s.params.bufBlocks * s.fmt.ba.toNat := by
  obtain ⟨h1, h2, h3, h4, -, -⟩ := descriptorCheck_none.mp h.descriptor
  have hb : s.bps.toNat = s.fmt.bits.toNat / 8 := by
    have := s.fmt.bits.isLt
    rw [h.bps, BitVec.toNat_ofNat, Nat.mod_eq_of_lt (by omega)]
  have hz : s.bufsz.toNat = s.params.bufBlocks * s.fmt.ba.toNat := by
    have := s.fmt.ba.isLt
    rw [h.bufsz, BitVec.toNat_ofNat, Nat.mod_eq_of_lt]
    calc s.params.bufBlocks * s.fmt.ba.toNat ≤ 65537 * 65535 := Nat.mul_le_mul hp.2.2.2 (by omega)
      _ < 2 ^ 32 := by decide
  refine ⟨?_, by rw [hb]; exact h4, hz⟩
  rw [h4]
  exact Nat.mul_ne_zero (by omega) h1

end Sys2Proof.Machine
end

