-- ==== Sys2Proof/Laws/PerInstr.lean ====
section
/-! SUPPORT. Statements made per instruction. `EncodedShape`: an operation's encoding has the shape of its
format (30_encoding.md R90, R107): a word for `CMD`, a field for `HDR`, nothing for `UOP`. -/

namespace Sys2Proof.Laws.EncodedShape

/-- The format that an encoding's shape belongs to. -/
def shape : Sys2Proof.Encoding → Sys2Proof.Format
  | .word _ => .cmd
  | .field _ _ => .hdr
  | .internal => .uop

/-- The encoding of an operation has the shape of its format. -/
def Statement (i : Sys2Proof.Instr) : Prop := shape (Sys2Proof.encode i) = i.format

theorem tbuild : Statement .tbuild := rfl
theorem runBlkAll (chsel : Half) : Statement (.runBlkAll chsel) := rfl
theorem runChAll (chsel : Half) : Statement (.runChAll chsel) := rfl
theorem runBlkNn (chsel : Half) : Statement (.runBlkNn chsel) := rfl
theorem runChNn (chsel : Half) : Statement (.runChNn chsel) := rfl
theorem runRpt (filt gran : Bool) (chsel : Half) : Statement (.runRpt filt gran chsel) := rfl
theorem h1 : Statement .h1 := rfl
theorem h2 : Statement .h2 := rfl
theorem h3 : Statement .h3 := rfl
theorem h4 : Statement .h4 := rfl
theorem h5 : Statement .h5 := rfl
theorem h6 : Statement .h6 := rfl
theorem h7 : Statement .h7 := rfl
theorem h8 : Statement .h8 := rfl
theorem reflect (v : Word) (w : Nat) : Statement (.reflect v w) := rfl
theorem tentry (b : Byte) : Statement (.tentry b) := rfl
theorem tbuildLoop : Statement .tbuildLoop := rfl
theorem crcupd (st : Word) (b : Byte) : Statement (.crcupd st b) := rfl
theorem crcfin (st : Word) : Statement (.crcfin st) := rfl
theorem rdbufKnown : Statement .rdbufKnown := rfl
theorem rdbufUnknown : Statement .rdbufUnknown := rfl
theorem accBlkAll : Statement .accBlkAll := rfl
theorem accBlkNn : Statement .accBlkNn := rfl
theorem accChAll : Statement .accChAll := rfl
theorem accChNn : Statement .accChNn := rfl
theorem accRpt : Statement .accRpt := rfl
theorem commit : Statement .commit := rfl
theorem raise (kind : ErrKind) (step sub expected found : Nat) :
    Statement (.raise kind step sub expected found) := rfl

end Sys2Proof.Laws.EncodedShape
end

