-- ==== Sys2Proof/Laws/Sequencer.lean ====
section
/-! SUPPORT. The sequencer: which operation each phase can select, and the meaning of a decoded word. -/

namespace Sys2Proof.Machine

/-- Where a command is accepted, the command port decides (R221). -/
theorem select_of_ready {s : State} (h : s.phase.ready = true) : select s = selectCommand s := by
  unfold select
  cases hp : s.phase <;> simp_all [Phase.ready]

/-- A legal word is `TBUILD` or a `RUN` command (R95). -/
theorem decodeCmd_ok {w : Word} {i : Instr} (h : decodeCmd w = .ok i) :
    i = .tbuild ∨ i = decodeRun (cmdReport w) (cmdFilt w) (cmdGran w) (cmdChsel w) := by
  unfold decodeCmd at h
  split at h
  · split at h
    · exact .inl (by simpa using h.symm)
    · exact absurd h (by simp)
  · split at h
    · split at h
      · exact .inr (by simpa using h.symm)
      · exact absurd h (by simp)
    · exact absurd h (by simp)

/-- The five `RUN` commands differ in their mode bits alone (R222). -/
theorem exec_decodeRun (report filt gran : Bool) (chsel : Half) (s : State) :
    exec (decodeRun report filt gran chsel) s = acceptRun report filt gran chsel s := by
  cases report <;> cases filt <;> cases gran <;> rfl

/-- A raise of every kind but `InvalidCommand`, as its registers. -/
theorem raiseErr_eq_raisedState {k : ErrKind} (h : k ≠ .invalidCommand) (n sub e f : Nat) (s : State) :
    raiseErr k n sub e f s = raisedState s (errCode k) (n + 256 * sub) e f := by
  simp [raiseErr, raisedState, h, errStepWord]

/-- A sample of the time input spends a fixed value or draws a free one, and changes nothing else. -/
theorem timeAdvance_frame (s : State) :
    ∃ ts d, timeAdvance s = { s with ports := { s.ports with timeIn := ts }, draws := d } := by
  unfold timeAdvance
  cases h : s.ports.timeIn with
  | nil => exact ⟨[], s.draws + 1, by simp [← h]⟩
  | cons t ts => exact ⟨ts, s.draws, rfl⟩

/-- What the data phase can select (R170, R172, R175). -/
theorem selectData_cases (s : State) :
    (s.step ≠ 9 ∧ selectData s = .lost) ∨
    (s.step = 9 ∧ s.primed = false ∧ selectData s = .dataStart) ∨
    (s.step = 9 ∧ s.primed = true ∧ loopDone s = true ∧ selectData s = .perform .commit) ∨
    (s.step = 9 ∧ s.primed = true ∧ loopDone s = false ∧ s.cnt.dsize.toNat = 0 ∧
      selectData s = .perform .rdbufUnknown) ∨
    (s.step = 9 ∧ s.primed = true ∧ loopDone s = false ∧ s.cnt.dsize.toNat ≠ 0 ∧
      selectData s = .perform .rdbufKnown) := by
  unfold selectData
  by_cases h9 : s.step = 9
  · cases hp : s.primed
    · simp [h9]
    · cases hl : loopDone s
      · by_cases hd : s.cnt.dsize.toNat = 0 <;> simp [h9, hd]
      · simp [h9]
  · simp [h9]

/-- What the command port can select (R220, R221): a wait, an illegal word, or one of the commands. -/
theorem selectCommand_cases (s : State) :
    selectCommand s = .wait ∨ (∃ w, selectCommand s = .illegal w) ∨ selectCommand s = .perform .tbuild ∨
      ∃ report filt gran chsel, selectCommand s = .perform (decodeRun report filt gran chsel) := by
  unfold selectCommand
  split
  · exact .inl rfl
  · split
    · next i hi =>
      rcases decodeCmd_ok hi with rfl | rfl
      · exact .inr (.inr (.inl rfl))
      · exact .inr (.inr (.inr ⟨_, _, _, _, rfl⟩))
    · exact .inr (.inl ⟨_, rfl⟩)

/-- No command reads the stream. -/
theorem nextRead_command {s : State} (h : select s = selectCommand s) : nextRead s = none := by
  unfold nextRead
  rw [h]
  rcases selectCommand_cases s with h | ⟨w, h⟩ | h | ⟨r, f, g, c, h⟩ <;> rw [h]
  cases r <;> cases f <;> cases g <;> rfl

end Sys2Proof.Machine
end

