-- ==== Sys2Proof/Tests/Slice0.lean ====
section
/-! SUPPORT. The model's own tests. `test_…` checks one decoding or one step against a vector of
95_test_vectors.md or an example of a rule, named in its docstring; `witness_<Name>` shows a concrete state and
operands that meet the hypotheses of the obligation `<Name>`, one conjunct or theorem for each of its clauses. -/

namespace Sys2Proof.Tests

open Sys2Proof.Machine

/-! ### Small states -/

/-- The next state, if there is one. -/
def nextOf : Host.Outcome State Fault Refusal → Option State
  | .next t => some t
  | .fault _ => none
  | .refused _ => none

/-- The instruction that a decoding answers. -/
def okOf : Except DecodeError Instr → Option Instr
  | .ok i => some i
  | .error _ => none

/-- The name by which a decoding is rejected. -/
def errorOf : Except DecodeError Instr → Option DecodeError
  | .ok _ => none
  | .error e => some e

/-- After reset, with a valid table. -/
def built : State := { State.reset with tvalid := true, table := builtTable }

/-- With stream bytes offered, `in_eos` after them or not. -/
def offering (s : State) (bs : List Byte) (fin : Bool) : State :=
  { s with ports := { s.ports with inBytes := bs, inEnd := fin } }

/-- With a command word offered and `TIME_MS` fixed at 7. -/
def commanded (s : State) (w : Word) : State :=
  { s with ports := { s.ports with cmd := some w, timeIn := [7#32] } }

/-- In the header phase at a step. -/
def atStep (n : Fin 10) (bs : List Byte) : State := offering { built with phase := .header, step := n } bs false

/-- The format of program P1: mono, 8 bits, 8000 Hz. -/
def monoFmt : Descriptor :=
  { tag := 1#16, nch := 1#16, rate := 8000#32, brate := 8000#32, ba := 1#16, bits := 8#16 }

/-- The format of program P2: stereo, 16 bits, 44100 Hz. -/
def stereoFmt : Descriptor :=
  { tag := 1#16, nch := 2#16, rate := 44100#32, brate := 176400#32, ba := 4#16, bits := 16#16 }

/-- The data bytes of program P2. -/
def stereoData : List Byte :=
  [0x01#8, 0x00#8, 0x00#8, 0x00#8, 0x00#8, 0x00#8, 0x02#8, 0x00#8,
    0x00#8, 0x00#8, 0x00#8, 0x00#8, 0xFF#8, 0x7F#8, 0x00#8, 0x80#8]

/-- A mode latch. -/
def modeOf (report filt gran : Bool) (sel : Half) : Mode := { gran := gran, filt := filt, report := report, sel := sel }

/-- A state in the data phase with a format, its geometry, a declared size and fresh accumulators. -/
def inData (f : Descriptor) (m : Mode) (dsize : Word) (primed : Bool) : State :=
  { built with
    phase := .data
    step := 9
    mode := m
    fmt := f
    bps := BitVec.ofNat 16 (f.bits.toNat / 8)
    bufsz := BitVec.ofNat 32 (4096 * f.ba.toNat)
    acc := List.replicate 10 0xFFFFFFFF#32
    cnt := { dsize := dsize, rem := dsize, req := 0#32, got := 0#32, tot := 0#64, last := false }
    res := { Results.cleared 10 with modeTag := modeTagOf m.report m.filt m.gran }
    primed := primed }

/-- The same with program P2's 16 bytes read into `BUF`. -/
def loaded (m : Mode) : State :=
  let s := inData stereoFmt m 16#32 true
  { s with buf := Memory.load [] stereoData, cnt := { s.cnt with got := 16#32 } }

/-! ### Well-formedness: an ill-formed term for each check -/

theorem test_wf_reflect_width_zero : (Instr.reflect 1#32 0).wellFormed = false := by decide
theorem test_wf_reflect_width_above_32 : (Instr.reflect 1#32 33).wellFormed = false := by decide
theorem test_wf_raise_step : (Instr.raise .notWave 2 0 0 0).wellFormed = false := by decide
theorem test_wf_raise_sub_missing : (Instr.raise .inconsistentFormat 6 0 0 0).wellFormed = false := by decide
theorem test_wf_raise_sub_foreign : (Instr.raise .notPcm 6 1 1 3).wellFormed = false := by decide
theorem test_wf_raise_expected : (Instr.raise .notPcm 6 0 (2 ^ 32) 3).wellFormed = false := by decide
theorem test_wf_raise_found : (Instr.raise .notPcm 6 0 1 (2 ^ 32)).wellFormed = false := by decide
theorem test_wf_raise_good : (Instr.raise .inconsistentFormat 6 3 4 2).wellFormed = true := by decide

/-! ### Decoding: words and fields written out from 30_encoding.md R91 to R98 and vectors K1, K2 -/

theorem test_decode_tbuild : okOf (decodeCmd 0x01000000#32) = some .tbuild := by decide
theorem test_decode_run_blk_all : okOf (decodeCmd 0x0200FFFF#32) = some (.runBlkAll 0xFFFF#16) := by decide
theorem test_decode_run_ch_all : okOf (decodeCmd 0x020103FF#32) = some (.runChAll 0x03FF#16) := by decide
theorem test_decode_run_blk_nn : okOf (decodeCmd 0x02020000#32) = some (.runBlkNn 0#16) := by decide
theorem test_decode_run_ch_nn : okOf (decodeCmd 0x02030200#32) = some (.runChNn 0x0200#16) := by decide
theorem test_decode_run_rpt : okOf (decodeCmd 0x0205FFFF#32) = some (.runRpt false true 0xFFFF#16) := by decide
theorem test_decode_run_rpt_filt : okOf (decodeCmd 0x02060000#32) = some (.runRpt true false 0#16) := by decide
theorem test_decode_opcode_zero : errorOf (decodeCmd 0x00000000#32) = some .reservedOpcode := by decide
theorem test_decode_opcode_three : errorOf (decodeCmd 0x03000000#32) = some .reservedOpcode := by decide
theorem test_decode_reserved_bits : errorOf (decodeCmd 0x02080000#32) = some .reservedBits := by decide
theorem test_decode_tbuild_operand : errorOf (decodeCmd 0x01000001#32) = some .tbuildOperand := by decide
theorem test_decode_fields :
    [(0, 4), (4, 4), (8, 4), (12, 4), (16, 4), (20, 16), (36, 4), (40, 4)].map (fun p => okOf (decodeField p.1 p.2)) =
      [some .h1, some .h2, some .h3, some .h4, some .h5, some .h6, some .h7, some .h8] := by decide
theorem test_decode_field_unknown : errorOf (decodeField 44 4) = some .unknownField := by decide
theorem test_decode_internal : errorOf (decode (encode .commit)) = some .noEncoding := by decide
theorem test_header_constants :
    le32 [0x52#8, 0x49#8, 0x46#8, 0x46#8] 0 = 0x46464952#32 ∧ le32 [0x57#8, 0x41#8, 0x56#8, 0x45#8] 0 = 0x45564157#32 ∧
    le32 [0x66#8, 0x6D#8, 0x74#8, 0x20#8] 0 = 0x20746D66#32 ∧ le32 [0x64#8, 0x61#8, 0x74#8, 0x61#8] 0 = 0x61746164#32 := by
  decide
theorem test_table_words :
    decodeTableWord 32 0x02030005 = some (.runChNn 0x0005#16) ∧ decodeTableWord 32 0x45564157 = some .h3 ∧
    decodeTableWord 32 0x00000010 = some .h5 ∧ decodeTableWord 128 1 = some .h6 ∧ decodeTableWord 32 7 = none := by
  decide
theorem test_fetch_command :
    select (State.reset.withFetchWord 32 0x01000000) = .perform .tbuild := by decide
theorem test_fetch_constant : select (State.reset.withFetchWord 32 0x46464952) = .perform .h1 := by decide
theorem test_fetch_descriptor : select (State.reset.withFetchWord 128 1) = .perform .h6 := by decide

/-! ### The engine: vectors T1 to T6 -/

theorem test_reflect_poly : reflect 0x04C11DB7#32 32 = 0xEDB88320#32 := by decide
theorem test_reflect_ignores_high_bits : reflect 0x101#32 8 = 0x80#32 := by decide
theorem test_tentry : tentry 0x01#8 = 0x77073096#32 ∧ tentry 0x80#8 = 0xEDB88320#32 := by decide +kernel
theorem test_crcupd :
    (nextOf (exec (.crcupd 0x12345678#32 0x9A#8) built)).map State.uopOut = some 0x4E16B702#32 := by decide +kernel
theorem test_crcfin : crcFin 0xD870E208#32 = 0x278F1DF7#32 := by decide
theorem test_tbuild_loop :
    (nextOf (exec .tbuildLoop { State.reset with phase := .tbuild })).map
      (fun t => (t.table.getD 255 0#32, t.status)) = some (0x2D02EF8D#32, 0x00000008#32) := by decide +kernel

/-! ### Commands: vectors K2, K3, T6 and the first line of the trace of P1 -/

theorem test_accept_run :
    (nextOf (step (commanded State.reset 0x02000000#32))).map
      (fun t => (t.status, t.phase, t.t0, t.ports.cmd)) = some (0x00000001#32, .tbuild, 7#32, none) := by decide
theorem test_accept_run_built :
    (nextOf (exec (.runRpt false true 0xFFFF#16) (commanded built 0x0205FFFF#32))).map
      (fun t => (t.status, t.phase, t.step)) = some (0x00050009#32, .header, 1) := by decide
theorem test_accept_illegal :
    (nextOf (step (commanded State.reset 0x02080000#32))).map
      (fun t => (t.status, t.res.errKind, t.res.errFound)) = some (0x00000304#32, 12#32, 0x02080000#32) := by decide
theorem test_accept_selector :
    (nextOf (step (commanded State.reset 0x02032801#32))).map
      (fun t => (t.status, t.res.errKind, t.res.errExp, t.res.errFound)) =
      some (0x00030304#32, 11#32, 9#32, 11#32) := by decide
theorem test_tbuild_again :
    (nextOf (exec .tbuild { built with phase := .done })).map (fun t => (t.status, t.phase)) =
      some (0x00000008#32, .idle) := by decide

/-! ### The header: examples of R141 to R150 -/

theorem test_h1_not_riff :
    (nextOf (exec .h1 (atStep 1 [0x52#8, 0x49#8, 0x46#8, 0x58#8]))).map
      (fun t => (t.status, t.res.errKind, t.res.errStep, t.res.errFound, t.pos)) =
      some (0x0000020C#32, 1#32, 1#32, 0x58464952#32, 4) := by decide
theorem test_h2_any :
    (nextOf (exec .h2 (atStep 2 [0xFF#8, 0xFF#8, 0xFF#8, 0xFF#8]))).map (fun t => (t.step, t.pos)) = some (3, 4) := by
  decide
theorem test_h3_not_wave :
    (nextOf (exec .h3 (atStep 3 [0x57#8, 0x41#8, 0x56#8, 0x58#8]))).map (fun t => (t.res.errKind, t.res.errFound)) =
      some (2#32, 0x58564157#32) := by decide
theorem test_h4_list :
    (nextOf (exec .h4 (atStep 4 [0x4C#8, 0x49#8, 0x53#8, 0x54#8]))).map (fun t => (t.res.errKind, t.res.errFound)) =
      some (3#32, 0x5453494C#32) := by decide
theorem test_h5_eighteen :
    (nextOf (exec .h5 (atStep 5 [0x12#8, 0x00#8, 0x00#8, 0x00#8]))).map
      (fun t => (t.res.errKind, t.res.errExp, t.res.errFound)) = some (4#32, 16#32, 18#32) := by decide
theorem test_h6_stereo :
    (nextOf (exec .h6 (atStep 6 [0x01#8, 0x00#8, 0x02#8, 0x00#8, 0x44#8, 0xAC#8, 0x00#8, 0x00#8,
      0x10#8, 0xB1#8, 0x02#8, 0x00#8, 0x04#8, 0x00#8, 0x10#8, 0x00#8]))).map
      (fun t => (t.fmt, t.bps, t.bufsz, t.step)) = some (stereoFmt, 2#16, 16384#32, 7) := by decide
theorem test_h6_block_align :
    (nextOf (exec .h6 (atStep 6 [0x01#8, 0x00#8, 0x02#8, 0x00#8, 0x44#8, 0xAC#8, 0x00#8, 0x00#8,
      0x10#8, 0xB1#8, 0x02#8, 0x00#8, 0x02#8, 0x00#8, 0x10#8, 0x00#8]))).map
      (fun t => (t.res.errStep, t.res.errExp, t.res.errFound)) = some (0x306#32, 4#32, 2#32) := by decide
theorem test_h7_list :
    (nextOf (exec .h7 (atStep 7 [0x4C#8, 0x49#8, 0x53#8, 0x54#8]))).map (fun t => (t.res.errKind, t.res.errFound)) =
      some (7#32, 0x5453494C#32) := by decide
theorem test_h8_not_aligned :
    (nextOf (exec .h8 { atStep 8 [0x06#8, 0x00#8, 0x00#8, 0x00#8] with fmt := stereoFmt })).map
      (fun t => (t.res.errKind, t.res.errStep, t.res.errExp, t.res.errFound)) = some (9#32, 8#32, 4#32, 6#32) := by
  decide

/-! ### The data phase: examples of R173, R174 and R196 to R200 over the data of P2 -/

theorem test_rdbuf_known_short :
    (nextOf (exec .rdbufKnown (offering (inData monoFmt (modeOf false false false 0#16) 8#32 true)
      [1#8, 2#8, 3#8, 4#8] true))).map (fun t => (t.res.errKind, t.res.errExp, t.res.errFound)) =
      some (10#32, 8#32, 4#32) := by decide +kernel
theorem test_rdbuf_known :
    (nextOf (exec .rdbufKnown (offering (inData monoFmt (modeOf false false false 0#16) 4#32 true)
      [0#8, 5#8, 0#8, 0#8] false))).map (fun t => (t.acc.getD 0 0#32, t.cnt.tot, t.cnt.rem, t.pos)) =
      some (0xD870E208#32, 4#64, 0#32, 4) := by decide +kernel
theorem test_rdbuf_unknown_inside_block :
    (nextOf (exec .rdbufUnknown (offering (inData { monoFmt with ba := 2#16, bits := 16#16 }
      (modeOf false false false 0#16) 0#32 true) [1#8, 2#8, 3#8, 4#8, 5#8] true))).map
      (fun t => (t.res.errKind, t.res.errStep, t.res.errExp, t.res.errFound)) =
      some (9#32, 9#32, 2#32, 5#32) := by decide +kernel
theorem test_rdbuf_unknown_empty :
    (nextOf (exec .rdbufUnknown (offering (inData monoFmt (modeOf false false false 0#16) 0#32 true) [] true))).map
      (fun t => (t.cnt.last, t.eosf, t.acc.getD 0 0#32, t.phase)) = some (true, true, 0xFFFFFFFF#32, .data) := by
  decide +kernel

/-- The finalized accumulators of a pass over P2's data, in one accumulation. -/
def finalized (i : Instr) (m : Mode) : Option (List Word) :=
  (nextOf (exec i (loaded m))).map fun t => (t.acc.take 3).map crcFin

theorem test_acc_blk_all :
    finalized .accBlkAll (modeOf false false false 0#16) = some [0x2A36A045#32, 0#32, 0#32] := by decide +kernel
theorem test_acc_blk_nn :
    finalized .accBlkNn (modeOf false true false 0#16) = some [0x8850D440#32, 0#32, 0#32] := by decide +kernel
theorem test_acc_ch_all :
    finalized .accChAll (modeOf false false true 3#16) = some [0xFA164E28#32, 0xC552FD42#32, 0#32] := by
  decide +kernel
theorem test_acc_ch_nn :
    finalized .accChNn (modeOf false true true 3#16) = some [0xCA6629A6#32, 0x66F594B7#32, 0#32] := by
  decide +kernel
theorem test_acc_ch_one_channel :
    finalized .accChAll (modeOf false false true 2#16) = some [0#32, 0xC552FD42#32, 0#32] := by decide +kernel
theorem test_acc_rpt :
    finalized .accRpt (modeOf true false false 0#16) = some [0x2A36A045#32, 0x8850D440#32, 0xCA6629A6#32] := by
  decide +kernel

/-! ### Commit, raise and the result registers: the last lines of P1 and P2 -/

theorem test_commit_blk :
    (nextOf (exec .commit { loaded (modeOf false false false 0#16) with acc := List.replicate 10 0xD870E208#32 })).map
      (fun t => (t.status, t.res.valid, t.res.crc.take 2, t.res.totalLo)) =
      some (0x0000010A#32, 1#32, [0x278F1DF7#32, 0#32], 0#32) := by decide +kernel
theorem test_commit_rpt :
    (nextOf (exec .commit (commanded { loaded (modeOf true false false 0#16) with t0 := 4#32 } 0#32))).map
      (fun t => (t.status, t.res.valid, t.res.fmtByteRate, t.res.elapsedMs)) =
      some (0x0004010A#32, 7#32, 176400#32, 3#32) := by decide +kernel
theorem test_raise :
    (nextOf (exec (.raise .inconsistentFormat 6 3 4 2) built)).map
      (fun t => (t.status, t.res.errKind, t.res.errStep)) = some (0x0000020C#32, 5#32, 0x306#32) := by decide
theorem test_read_result : readResult built 0x00 = .next 0x00000008#32 := rfl

/-! ### Witnesses: states and operands that meet the hypotheses of the obligations -/

/-- A passed descriptor of 16 bytes, as a stream. -/
def stereoBytes : List Byte :=
  [0x01#8, 0x00#8, 0x02#8, 0x00#8, 0x44#8, 0xAC#8, 0x00#8, 0x00#8, 0x10#8, 0xB1#8, 0x02#8, 0x00#8,
    0x04#8, 0x00#8, 0x10#8, 0x00#8]

theorem witness_DecodeOfEncodeIsTheOperation :
    (Instr.runRpt true false 0xFFFF#16).wellFormed = true ∧ (Instr.runRpt true false 0xFFFF#16).format ≠ .uop ∧
    Instr.h6.wellFormed = true ∧ Instr.h6.format ≠ .uop := by decide
theorem witness_EncodeOfDecodedCommandIsTheWord : decodeCmd 0x0207FFFF#32 = .ok (.runRpt true true 0xFFFF#16) := rfl
theorem witness_CommandWordsAreTheSixPatterns :
    0x01000000#32 &&& 0xFFFFFFFF#32 = 0x01000000#32 ∧ 0x0200FFFF#32 &&& 0xFFFF0000#32 = 0x02000000#32 ∧
    0x0201FFFF#32 &&& 0xFFFF0000#32 = 0x02010000#32 ∧ 0x0202FFFF#32 &&& 0xFFFF0000#32 = 0x02020000#32 ∧
    0x0203FFFF#32 &&& 0xFFFF0000#32 = 0x02030000#32 ∧ 0x0207FFFF#32 &&& 0xFFFC0000#32 = 0x02040000#32 ∧
    (0x02080000#32 &&& 0xFFFFFFFF#32 ≠ 0x01000000#32 ∧ 0x02080000#32 &&& 0xFFFF0000#32 ≠ 0x02000000#32 ∧
      0x02080000#32 &&& 0xFFFF0000#32 ≠ 0x02010000#32 ∧ 0x02080000#32 &&& 0xFFFF0000#32 ≠ 0x02020000#32 ∧
      0x02080000#32 &&& 0xFFFF0000#32 ≠ 0x02030000#32 ∧ 0x02080000#32 &&& 0xFFFC0000#32 ≠ 0x02040000#32) := by decide
theorem witness_ReflectReversesTheLowBits :
    (1 ≤ 1 ∧ 1 ≤ 32 ∧ (1#32).toNat < 2 ^ 1) ∧ (1 ≤ 32 ∧ 32 ≤ 32 ∧ (0xFFFFFFFF#32).toNat < 2 ^ 32) := by decide
theorem witness_TableBuildWritesOnlyAnInvalidTable : State.reset.tvalid = false ∧ built.tvalid = true := ⟨rfl, rfl⟩
theorem witness_CrcUpdateReadsTheTable : built.tvalid = true := rfl
theorem witness_CrcUpdateBeforeTheBuildIgnoresTheStoredTable : State.reset.tvalid = false := rfl
theorem witness_CrcUpdateIsInjective :
    crcUpd (fun i => builtTable.getD i.toNat 0#32) 7#32 1#8 = crcUpd (fun i => builtTable.getD i.toNat 0#32) 7#32 1#8 :=
  rfl
theorem witness_TbuildCommandClearsAndBuilds :
    (built.phase.ready = true ∧ built.tvalid = true) ∧
    (State.reset.phase.ready = true ∧ State.reset.tvalid = false) := by decide
theorem witness_RunCommandsStartTheirPass :
    State.reset.phase.ready = true ∧ ∀ c, State.reset.params.nacc ≤ c → (0x03FF#16).getLsbD c = false := by
  refine ⟨rfl, fun c hc => ?_⟩
  have h : 10 ≤ c := hc
  by_cases h16 : 16 ≤ c
  · exact BitVec.getLsbD_of_ge _ _ h16
  · have : c = 10 ∨ c = 11 ∨ c = 12 ∨ c = 13 ∨ c = 14 ∨ c = 15 := by omega
    rcases this with rfl | rfl | rfl | rfl | rfl | rfl <;> rfl
theorem witness_SelectorBeyondTheFileIsRefused :
    State.reset.phase.ready = true ∧ State.reset.params.nacc ≤ 10 ∧ (0x0400#16).getLsbD 10 = true ∧
    (∀ c', State.reset.params.nacc ≤ c' → c' < 10 → (0x0400#16).getLsbD c' = false) ∧
    State.reset.params.nacc ≤ 11 ∧ (0x2801#16).getLsbD 11 = true ∧
    (∀ c', State.reset.params.nacc ≤ c' → c' < 11 → (0x2801#16).getLsbD c' = false) := by
  refine ⟨rfl, by decide, rfl, fun c h1 h2 => ?_, by decide, rfl, fun c h1 h2 => ?_⟩
  · have : 10 ≤ c := h1
    omega
  · have h : 10 ≤ c := h1
    have : c = 10 := by omega
    subst this
    rfl
theorem witness_CommandsWaitWhileBusy :
    (Instr.runBlkAll 0#16).format = .cmd ∧ Instr.tbuild.format = .cmd ∧ Phase.tbuild.busy = true ∧
    (atStep 1 []).phase.busy = true ∧ (loaded (modeOf false false false 0#16)).phase.busy = true := by decide
theorem witness_IllegalWordIsInvalidCommand :
    (let s := commanded State.reset 0x02080000#32;
      s.ports.rst = false ∧ s.phase.ready = true ∧ s.ports.cmd = some 0x02080000#32) ∧
    (0x03000000#32 >>> 24 ≠ 0x01#32 ∧ 0x03000000#32 >>> 24 ≠ 0x02#32) ∧
    (0x02080000#32 >>> 24 = 0x02#32 ∧ (0x02080000#32 >>> 19) &&& 0x1F#32 ≠ 0#32) ∧
    (0x01000001#32 >>> 24 = 0x01#32 ∧ 0x01000001#32 &&& 0xFFFFFF#32 ≠ 0#32) := by decide
theorem witness_TagStepsGoOnOverTheirBytes :
    (atStep 1 [0x52#8, 0x49#8, 0x46#8, 0x46#8]).eosf = false ∧
    (atStep 1 [0x52#8, 0x49#8, 0x46#8, 0x46#8]).ports.inBytes.take 4 = [0x52#8, 0x49#8, 0x46#8, 0x46#8] ∧
    4 ≤ (atStep 2 [0#8, 0#8, 0#8, 0#8]).ports.inBytes.length ∧
    (atStep 3 [0x57#8, 0x41#8, 0x56#8, 0x45#8]).ports.inBytes.take 4 = [0x57#8, 0x41#8, 0x56#8, 0x45#8] ∧
    (atStep 4 [0x66#8, 0x6D#8, 0x74#8, 0x20#8]).ports.inBytes.take 4 = [0x66#8, 0x6D#8, 0x74#8, 0x20#8] ∧
    (atStep 5 [0x10#8, 0#8, 0#8, 0#8]).ports.inBytes.take 4 = [0x10#8, 0x00#8, 0x00#8, 0x00#8] ∧
    (atStep 7 [0x64#8, 0x61#8, 0x74#8, 0x61#8]).ports.inBytes.take 4 = [0x64#8, 0x61#8, 0x74#8, 0x61#8] := by decide
theorem witness_TagStepsRejectOtherBytes :
    let s := atStep 1 [0x52#8, 0x49#8, 0x46#8, 0x58#8]
    s.eosf = false ∧ s.ports.inBytes = 0x52#8 :: 0x49#8 :: 0x46#8 :: 0x58#8 :: [] ∧
    [0x52#8, 0x49#8, 0x46#8, 0x58#8] ≠ [0x52#8, 0x49#8, 0x46#8, 0x46#8] ∧
    [0x52#8, 0x49#8, 0x46#8, 0x58#8] ≠ [0x57#8, 0x41#8, 0x56#8, 0x45#8] ∧
    [0x52#8, 0x49#8, 0x46#8, 0x58#8] ≠ [0x66#8, 0x6D#8, 0x74#8, 0x20#8] ∧
    [0x52#8, 0x49#8, 0x46#8, 0x58#8] ≠ [0x10#8, 0x00#8, 0x00#8, 0x00#8] ∧
    [0x52#8, 0x49#8, 0x46#8, 0x58#8] ≠ [0x64#8, 0x61#8, 0x74#8, 0x61#8] := by decide
theorem witness_ShortHeaderReadIsTruncatedStream :
    let s := offering (atStep 1 []) [0x52#8, 0x49#8, 0x46#8] true
    let t := offering (atStep 6 []) (stereoBytes.take 15) true
    (s.eosf = false ∧ s.ports.inEnd = true ∧ s.ports.inBytes.length < 4) ∧
    (t.eosf = false ∧ t.ports.inEnd = true ∧ t.ports.inBytes.length < 16) := by decide
theorem witness_ReadsBlockUntilBytesOrEnd :
    let s := atStep 1 [0x52#8, 0x49#8, 0x46#8]
    let t := atStep 6 (stereoBytes.take 15)
    let u := offering (inData stereoFmt (modeOf false false false 0#16) 16#32 true) (stereoData.take 15) false
    (s.eosf = false ∧ s.ports.inEnd = false ∧ s.ports.inBytes.length < 4) ∧
    (t.eosf = false ∧ t.ports.inEnd = false ∧ t.ports.inBytes.length < 16) ∧
    (u.eosf = false ∧ u.ports.inEnd = false ∧ u.ports.inBytes.length < min u.bufsz.toNat u.cnt.rem.toNat ∧
      u.ports.inBytes.length < u.bufsz.toNat) := by decide +kernel
theorem witness_AfterTheEndReadsObtainNothing :
    let s := { inData stereoFmt (modeOf false false false 0#16) 16#32 true with eosf := true }
    s.eosf = true ∧ 16 = min s.bufsz.toNat s.cnt.rem.toNat ∧ 0 < 16 ∧ 0 < s.bufsz.toNat ∧ s.fmt.ba.toNat ≠ 0 := by
  decide +kernel
theorem witness_ValidDescriptorIsAccepted :
    let s := atStep 6 stereoBytes
    let u := { s with mode := modeOf false false true 3#16 }
    let f := stereoFmt
    (s.eosf = false ∧ 16 ≤ s.ports.inBytes.length ∧ f = descriptorOf (s.ports.inBytes.take 16) ∧ 1 ≤ f.nch.toNat ∧
      0 < f.bits.toNat ∧ f.bits.toNat % 8 = 0 ∧ f.ba.toNat = f.bits.toNat / 8 * f.nch.toNat ∧
      f.brate.toNat = f.rate.toNat * f.ba.toNat ∧ f.tag = 1#16 ∧ s.mode.gran = false) ∧
    (u.mode.report = false ∧ u.mode.gran = true ∧
      ∀ c, c < u.params.nacc → u.mode.sel.getLsbD c = true → c < f.nch.toNat) := by decide +kernel
/-- Each clause at a descriptor that fails its condition and none before it. -/
theorem witness_InvalidDescriptorIsRejectedInOrder :
    let g (nch bits ba : Half) (brate : Word) (tag : Half) : Descriptor :=
      { tag := tag, nch := nch, rate := 44100#32, brate := brate, ba := ba, bits := bits }
    ((g 0#16 0#16 0#16 0#32 0#16).nch.toNat = 0) ∧
    ((g 1#16 12#16 0#16 0#32 0#16).nch.toNat ≠ 0 ∧ (g 1#16 12#16 0#16 0#32 0#16).bits.toNat % 8 ≠ 0) ∧
    (let f := g 2#16 16#16 2#16 0#32 0#16;
      f.nch.toNat ≠ 0 ∧ f.bits.toNat ≠ 0 ∧ f.bits.toNat % 8 = 0 ∧ f.ba.toNat ≠ f.bits.toNat / 8 * f.nch.toNat) ∧
    (let f := g 2#16 16#16 4#16 176399#32 0#16;
      f.nch.toNat ≠ 0 ∧ f.bits.toNat ≠ 0 ∧ f.bits.toNat % 8 = 0 ∧ f.ba.toNat = f.bits.toNat / 8 * f.nch.toNat ∧
        f.brate.toNat ≠ f.rate.toNat * f.ba.toNat) ∧
    (let f := g 2#16 16#16 4#16 176400#32 3#16;
      f.nch.toNat ≠ 0 ∧ f.bits.toNat ≠ 0 ∧ f.bits.toNat % 8 = 0 ∧ f.ba.toNat = f.bits.toNat / 8 * f.nch.toNat ∧
        f.brate.toNat = f.rate.toNat * f.ba.toNat ∧ f.tag ≠ 1#16) ∧
    (let s := atStep 6 (0x00#8 :: 0x00#8 :: 0x00#8 :: stereoBytes.drop 3);
      s.eosf = false ∧ 16 ≤ s.ports.inBytes.length ∧ (descriptorOf (s.ports.inBytes.take 16)).nch.toNat = 0) := by
  decide +kernel
theorem witness_MissingChannelIsRejectedAtStepSix :
    let s := { atStep 6 stereoBytes with mode := modeOf false false true 6#16 }
    let f := stereoFmt
    s.eosf = false ∧ 16 ≤ s.ports.inBytes.length ∧ f = descriptorOf (s.ports.inBytes.take 16) ∧
    descriptorCheck f = none ∧ s.mode.report = false ∧ s.mode.gran = true ∧ 2 < s.params.nacc ∧
    s.mode.sel.getLsbD 2 = true ∧ f.nch.toNat ≤ 2 ∧
    (∀ c', c' < 2 → s.mode.sel.getLsbD c' = true → c' < f.nch.toNat) := by decide +kernel
theorem witness_DataSizeMustBeAligned :
    let s (b : Byte) := { atStep 8 [b, 0#8, 0#8, 0#8] with fmt := stereoFmt }
    let n (b : Byte) : Nat := (le32 ((s b).ports.inBytes.take 4) 0).toNat
    ((s 0#8).eosf = false ∧ 4 ≤ (s 0#8).ports.inBytes.length ∧ n 0#8 = 0) ∧
    ((s 4#8).fmt.ba.toNat ≠ 0 ∧ n 4#8 % (s 4#8).fmt.ba.toNat = 0) ∧
    n 3#8 % (s 3#8).fmt.ba.toNat ≠ 0 ∧ n 5#8 % (s 5#8).fmt.ba.toNat ≠ 0 := by decide +kernel
theorem witness_DataStartInitialisesTheLoop :
    let s := inData stereoFmt (modeOf false false false 0#16) 16#32 false
    s.ports.rst = false ∧ s.phase = .data ∧ s.step = 9 ∧ s.primed = false := by decide +kernel
theorem witness_KnownSizeIterationTakesABuffer :
    let s := offering (inData stereoFmt (modeOf true false false 0#16) 16#32 true) stereoData false
    s.eosf = false ∧ 16 = min s.bufsz.toNat s.cnt.rem.toNat ∧ 16 ≤ s.ports.inBytes.length ∧ s.fmt.ba.toNat ≠ 0 ∧
    s.fmt.ba.toNat = s.bps.toNat * s.fmt.nch.toNat ∧ 16 % s.fmt.ba.toNat = 0 := by decide +kernel
theorem witness_ShortDataReadsRaiseTheirErrors :
    let s := offering (inData stereoFmt (modeOf false false false 0#16) 16#32 true) (stereoData.take 15) true
    s.eosf = false ∧ s.ports.inEnd = true ∧ 16 = min s.bufsz.toNat s.cnt.rem.toNat ∧
    s.ports.inBytes.length < 16 ∧ s.fmt.ba.toNat ≠ 0 ∧ s.ports.inBytes.length < s.bufsz.toNat ∧
    s.ports.inBytes.length % s.fmt.ba.toNat ≠ 0 := by decide +kernel
/-- Both forms: a full buffer of one block (`BUF_BLOCKS` = 1), and a short one of whole blocks. -/
theorem witness_UnknownSizeIterationTakesABuffer :
    let s := offering { inData stereoFmt (modeOf false false false 0#16) 0#32 true with bufsz := 4#32 } stereoData false
    let v := offering (inData stereoFmt (modeOf false false false 0#16) 0#32 true) stereoData true
    (s.eosf = false ∧ s.fmt.ba.toNat ≠ 0 ∧ s.fmt.ba.toNat = s.bps.toNat * s.fmt.nch.toNat ∧
      (stereoData.take 4).length % s.fmt.ba.toNat = 0 ∧ s.bufsz.toNat ≤ s.ports.inBytes.length ∧
      stereoData.take 4 = s.ports.inBytes.take s.bufsz.toNat) ∧
    (v.eosf = false ∧ v.fmt.ba.toNat ≠ 0 ∧ v.fmt.ba.toNat = v.bps.toNat * v.fmt.nch.toNat ∧
      stereoData.length % v.fmt.ba.toNat = 0 ∧ v.ports.inBytes.length < v.bufsz.toNat ∧ v.ports.inEnd = true ∧
      stereoData = v.ports.inBytes) := by decide +kernel
theorem witness_AccumulateIsTheSelectedOperation :
    (modeOf true true true 0#16).report = true ∧
    ((modeOf false false false 0#16).report = false ∧ (modeOf false false false 0#16).gran = false ∧
      (modeOf false false false 0#16).filt = false) ∧
    (modeOf false true false 0#16).filt = true ∧ (modeOf false false true 0#16).gran = true ∧
    ((modeOf false true true 0#16).filt = true ∧ (modeOf false true true 0#16).gran = true) := by decide
theorem witness_BlockModesFeedTheBlockAccumulator :
    let s := loaded (modeOf false true false 0#16)
    stereoData = (List.range s.cnt.got.toNat).map (Memory.read s.buf) ∧ s.cnt.got.toNat ≤ s.bufsz.toNat ∧
    s.fmt.ba.toNat ≠ 0 ∧ s.fmt.ba.toNat = s.bps.toNat * s.fmt.nch.toNat ∧
    s.cnt.got.toNat / s.fmt.ba.toNat * s.fmt.ba.toNat ≤ s.bufsz.toNat := by decide +kernel
/-- Each clause in a state that meets it: 16 bytes in a `BUF` of 15, `BA` = 0, a `BUF` of 15 under four blocks. -/
theorem witness_OperationsStopOutsideTheGeometry :
    let s := { loaded (modeOf false false false 0#16) with bufsz := 15#32 }
    let z := { offering (inData stereoFmt (modeOf true false false 0#16) 4#32 true) [4#8, 0#8, 0#8, 0#8] true with
      fmt := { stereoFmt with ba := 0#16 } }
    s.bufsz.toNat < s.cnt.got.toNat ∧
    (s.fmt.ba.toNat ≠ 0 ∧ s.fmt.ba.toNat = s.bps.toNat * s.fmt.nch.toNat ∧
      s.bufsz.toNat < s.cnt.got.toNat / s.fmt.ba.toNat * s.fmt.ba.toNat) ∧
    (z.eosf = false ∧ z.fmt.ba.toNat = 0 ∧ 4 ≤ z.ports.inBytes.length ∧
      (le32 (z.ports.inBytes.take 4) 0).toNat ≠ 0) ∧
    (z.ports.inEnd = true ∧ z.ports.inBytes.length < z.bufsz.toNat) ∧
    (min z.bufsz.toNat z.cnt.rem.toNat ≤ z.ports.inBytes.length ∧ z.mode.report = true) := by decide +kernel
/-- A channel that the file has and `SEL` selects, one it does not select, one the file lacks. -/
theorem witness_PerChannelFeedsEachSelectedChannel :
    let s := loaded (modeOf false true true 2#16)
    s.fmt.ba.toNat ≠ 0 ∧ s.fmt.ba.toNat = s.bps.toNat * s.fmt.nch.toNat ∧
    s.cnt.got.toNat / s.fmt.ba.toNat * s.fmt.ba.toNat ≤ s.bufsz.toNat ∧ s.acc.length = s.params.nacc ∧
    stereoData = (List.range s.cnt.got.toNat).map (Memory.read s.buf) ∧
    (1 < s.params.nacc ∧ 1 < s.fmt.nch.toNat ∧ s.mode.sel.getLsbD 1 = true) ∧
    (0 < s.params.nacc ∧ s.mode.sel.getLsbD 0 = false) ∧ (2 < s.params.nacc ∧ s.fmt.nch.toNat ≤ 2) := by decide +kernel
theorem witness_ReportFeedsTheThreeVariants :
    let s := loaded (modeOf true false false 0#16)
    s.fmt.ba.toNat ≠ 0 ∧ s.fmt.ba.toNat = s.bps.toNat * s.fmt.nch.toNat ∧ s.cnt.got.toNat % s.fmt.ba.toNat = 0 ∧
    s.cnt.got.toNat ≤ s.bufsz.toNat ∧ stereoData = (List.range s.cnt.got.toNat).map (Memory.read s.buf) := by
  decide +kernel
/-- Stereo buffers with no null sample and with null samples only, a mono buffer, and equal accumulators. -/
theorem witness_NullSamplesDecideTheNoNullModes :
    let holding (f : Descriptor) (d : List Byte) : State :=
      let s := inData f (modeOf false true true 1#16) 8#32 true
      { s with buf := Memory.load [] d, cnt := { s.cnt with got := 8#32 } }
    let s := holding stereoFmt [1#8, 0#8, 2#8, 0#8, 0#8, 3#8, 4#8, 0#8]
    let z := holding stereoFmt (List.replicate 8 0#8)
    let m := holding monoFmt [1#8, 0#8, 2#8, 0#8, 0#8, 3#8, 4#8, 0#8]
    (∀ x ∈ [s, z, m], x.fmt.ba.toNat ≠ 0 ∧ x.fmt.ba.toNat = x.bps.toNat * x.fmt.nch.toNat ∧
      x.cnt.got.toNat % x.fmt.ba.toNat = 0 ∧ x.cnt.got.toNat ≤ x.bufsz.toNat ∧ 3 ≤ x.acc.length ∧
      0 < x.params.nacc ∧ x.mode.sel.getLsbD 0 = true ∧ x.acc.getD 1 0#32 = x.acc.getD 0 0#32 ∧
      x.acc.getD 2 0#32 = x.acc.getD 0 0#32) ∧
    (8 / s.fmt.ba.toNat = 2 ∧ s.fmt.nch.toNat = 2 ∧ s.bps.toNat = 2 ∧ m.fmt.nch.toNat = 1) ∧
    (∀ k, k < 2 → ∀ c, c < 2 → ¬ ∀ j, j < 2 → Memory.read s.buf (k * 4 + c * 2 + j) = 0#8) ∧
    (∀ k, k < 2 → ∀ c, c < 2 → ∀ j, j < 2 → Memory.read z.buf (k * 4 + c * 2 + j) = 0#8) := by decide +kernel
theorem witness_AccumulationIgnoresBufferBoundaries :
    let s := loaded (modeOf false true true 3#16)
    s.fmt.ba.toNat ≠ 0 ∧ s.fmt.ba.toNat = s.bps.toNat * s.fmt.nch.toNat ∧
    (stereoData.take 4).length % s.fmt.ba.toNat = 0 ∧ (stereoData.drop 4).length % s.fmt.ba.toNat = 0 := by
  decide +kernel
theorem witness_CommitPublishesTheActiveAccumulators :
    let s := loaded (modeOf false true true 3#16)
    s.mode.report = false ∧ s.tvalid = true ∧ 0 < s.params.nacc ∧ 9 < s.params.nacc ∧ 1 ≤ s.params.nacc ∧
    s.params.nacc ≤ 16 ∧ s.params.nacc ≤ 10 := by decide
theorem witness_ReportCommitPublishesTheExtras :
    let s := loaded (modeOf true false false 0#16)
    s.mode.report = true ∧ 3 ≤ s.params.nacc ∧ s.tvalid = true ∧ 0 < s.params.nacc ∧ 9 < s.params.nacc := by decide
theorem witness_RaiseWritesTheErrorRegisters :
    (Instr.raise .inconsistentFormat 6 4 4294967295 0).wellFormed = true ∧
    (Instr.raise .invalidCommand 0 0 0 4294967295).wellFormed = true ∧
    (built.ports.rst = false ∧ built.ports.cmd = none) := by decide
theorem witness_StepPerformsTheDecodedCommand :
    let s := commanded State.reset 0x02030005#32
    s.ports.rst = false ∧ s.phase.ready = true ∧ s.ports.cmd = some 0x02030005#32 ∧
      decodeCmd 0x02030005#32 = .ok (.runChNn 0x0005#16) := ⟨rfl, rfl, rfl, rfl⟩
theorem witness_StepPerformsTheSequencedOperation :
    let s (m : Word) (r : Word) (l : Bool) : State :=
      let u := inData stereoFmt (modeOf false false false 0#16) m true
      { u with cnt := { u.cnt with rem := r, last := l } }
    State.reset.ports.rst = false ∧ ({ State.reset with phase := .tbuild } : State).phase = .tbuild ∧
    (State.reset.tvalid = false ∧ ({ built with phase := .tbuild } : State).phase = .tbuild ∧ built.tvalid = true) ∧
    ((atStep 1 []).phase = .header ∧ (atStep 1 []).step = 1 ∧ (atStep 8 []).step = 8) ∧
    ((s 4#32 4#32 false).phase = .data ∧ (s 4#32 4#32 false).step = 9 ∧ (s 4#32 4#32 false).primed = true ∧
      0 < (s 4#32 4#32 false).cnt.dsize.toNat ∧ 0 < (s 4#32 4#32 false).cnt.rem.toNat) ∧
    (0 < (s 4#32 0#32 false).cnt.dsize.toNat ∧ (s 4#32 0#32 false).cnt.rem.toNat = 0) ∧
    ((s 0#32 0#32 false).cnt.dsize.toNat = 0 ∧ (s 0#32 0#32 false).cnt.last = false) ∧
    ((s 0#32 0#32 true).cnt.dsize.toNat = 0 ∧ (s 0#32 0#32 true).cnt.last = true) := by decide +kernel
theorem witness_PhaseMovesAsTheTableSays :
    let s := atStep 2 [0#8, 0#8, 0#8, 0#8]
    s.ports.rst = false ∧ s.phase = .header ∧ step s = .next { afterRead 4 s with step := 3 } := ⟨rfl, rfl, rfl⟩
theorem witness_ValidTableIsNeverWritten :
    let s := atStep 2 [0#8, 0#8, 0#8, 0#8]
    s.ports.rst = false ∧ s.tvalid = true ∧ step s = .next { afterRead 4 s with step := 3 } := ⟨rfl, rfl, rfl⟩
theorem witness_BusyPassKeepsModeAndResults :
    let s := atStep 2 [0#8, 0#8, 0#8, 0#8]
    let t := { afterRead 4 s with step := 3 }
    s.ports.rst = false ∧ s.phase.busy = true ∧ step s = .next t ∧ t.phase ≠ .done ∧ t.phase ≠ .err :=
  ⟨rfl, rfl, rfl, by decide, by decide⟩
theorem witness_StreamIsConsumedInOrder :
    let s := atStep 2 [0#8, 0#8, 0#8, 0#8]
    (s.ports.rst = false ∧ s.phase.busy = true ∧ step s = .next { afterRead 4 s with step := 3 }) ∧
    (State.reset.ports.rst = false ∧ State.reset.phase.busy = false ∧ step State.reset = .next State.reset) :=
  ⟨⟨rfl, rfl, rfl⟩, rfl, rfl, rfl⟩
theorem witness_ResetAbandonsAnyPass :
    let s := { atStep 3 [1#8] with ports := { Ports.quiet with rst := true } }
    s.ports.rst = true ∧ 0xFC ≤ 0xFC ∧ 0xFC % 4 = 0 ∧ (atStep 3 [1#8]).ports.rst = false := by decide
theorem witness_ResultReadsFollowTheRegisterMap :
    let e (k : Word) : State := { built with phase := .err, res := { built.res with errKind := k } }
    State.reset.params.nacc ≤ 16 ∧ 0 < State.reset.params.nacc ∧ 9 < State.reset.params.nacc ∧
    (0x44 % 4 = 0 ∧ 0x7C % 4 = 0 ∧ 0x80 + 4 * State.reset.params.nacc ≤ 0xA8 ∧ 0xFC % 4 = 0) ∧
    (0xFC < 0x100 ∧ 0x02 % 4 ≠ 0) ∧
    (({ built with phase := .done } : State).params.nacc ≤ 16 ∧ ({ built with phase := .done } : State).phase = .done) ∧
    ((e 10#32).phase = .err ∧ 1 ≤ (e 1#32).res.errKind.toNat ∧ (e 10#32).res.errKind.toNat ≤ 10) ∧
    ((e 11#32).phase = .err ∧ 11 ≤ (e 11#32).res.errKind.toNat ∧ (e 12#32).res.errKind.toNat ≤ 12) ∧
    ((atStep 1 []).phase ≠ .done ∧ (atStep 1 []).phase ≠ .err) := by decide +kernel
theorem witness_HostMovesChangeThePortsAlone :
    (∃ t, hostMove (.stream true false 5#8) State.reset = .next t) ∧ State.reset.ports.cmd = none ∧
    (commanded State.reset 1#32).ports.cmd = some 1#32 ∧ 2#32 ≠ 1#32 ∧ State.reset.ports.inEnd = false ∧
    (offering State.reset [] true).ports.inEnd = true := ⟨⟨_, rfl⟩, rfl, rfl, by decide, rfl, rfl⟩
/-! ### Witnesses that need the invariant -/

/-- A machine in `IDLE` whose table is built meets the invariant, whatever the ports offer and whatever dead
registers hold. -/
theorem idle_inv (p : Ports) (u t0 : Word) :
    StateInv { built with ports := p, uopOut := u, t0 := t0, acc := List.replicate 10 u } where
  params := show Config.Params.standard.Wf by decide
  accSize := rfl
  crcSize := rfl
  tableSize := show builtTable.length = 256 by decide +kernel
  buf := rfl
  tableBuilt := fun _ => rfl
  headerStep := nofun
  dataStep := nofun
  passTable := fun _ => rfl
  buildNeeded := nofun
  headerFormat := nofun
  dataFormat := nofun
  dataAligned := nofun
  remAligned := nofun
  noResult := fun _ => ⟨rfl, rfl, ⟨rfl, rfl, rfl, rfl, rfl, rfl, rfl, rfl, rfl⟩⟩
  noError := fun _ => ⟨rfl, rfl, rfl, rfl⟩
  errorKind := nofun
  results := nofun
  extras := nofun
  tagPass := fun h => by rcases h with h | h | h <;> exact nomatch (show Phase.idle = _ from h)
  tagBuild := nofun
  tagIdle := fun _ => rfl

/-- A state at the start of its data phase, over the format of P2, meets the invariant. -/
theorem data_inv (p : Ports) (n : Word) (hn : n.toNat % 4 = 0) :
    StateInv { inData stereoFmt (modeOf false false true 3#16) n false with ports := p } where
  params := show Config.Params.standard.Wf by decide
  accSize := rfl
  crcSize := rfl
  tableSize := show builtTable.length = 256 by decide +kernel
  buf := rfl
  tableBuilt := fun _ => rfl
  headerStep := nofun
  dataStep := fun _ => rfl
  passTable := fun _ => rfl
  buildNeeded := nofun
  headerFormat := nofun
  dataFormat := fun _ =>
    ⟨show descriptorCheck stereoFmt = none by decide, rfl, rfl,
      show missingChannels (inData stereoFmt (modeOf false false true 3#16) 0#32 false) = [] by decide +kernel⟩
  dataAligned := fun _ => hn
  remAligned := nofun
  noResult := fun _ => ⟨rfl, rfl, ⟨rfl, rfl, rfl, rfl, rfl, rfl, rfl, rfl, rfl⟩⟩
  noError := fun _ => ⟨rfl, rfl, rfl, rfl⟩
  errorKind := nofun
  results := nofun
  extras := nofun
  tagPass := fun _ => rfl
  tagBuild := nofun
  tagIdle := nofun

theorem witness_EveryStepKeepsTheInvariant :
    let s := { inData stereoFmt (modeOf false false true 3#16) 16#32 false with ports := Ports.quiet }
    StateInv s ∧ step s = .next (dataStart s) := ⟨data_inv _ _ rfl, rfl⟩
theorem witness_InvariantStatesNeverStop :
    StateInv { inData stereoFmt (modeOf false false true 3#16) 16#32 false with ports := Ports.quiet } :=
  data_inv _ _ rfl
/-- Two machines that differ in the accumulators, `T0` and `uopOut`, all dead in `IDLE`. -/
theorem witness_NothingDeadIsEverRead :
    let p : Ports := { Ports.quiet with cmd := some 0x01000000#32 }
    let a := { built with ports := p, uopOut := 1#32, t0 := 1#32, acc := List.replicate 10 1#32 }
    let b := { built with ports := p, uopOut := 2#32, t0 := 2#32, acc := List.replicate 10 2#32 }
    StateInv a ∧ StateInv b ∧ AgreeLive a b ∧ step a = .next { acceptClear a with phase := .idle } :=
  ⟨idle_inv _ _ _, idle_inv _ _ _,
    { params := rfl, phase := rfl, tvalid := rfl, ports := rfl, res := rfl, draws := rfl, table := fun _ => rfl,
      pending := nofun, build := nofun, headerStep := nofun, header := nofun, headerFormat := nofun,
      dataStep := nofun, data := nofun, dataFormat := nofun, dataSize := nofun, dataPrimed := nofun,
      dataLoop := nofun }, rfl⟩
theorem witness_TimeReachesElapsedAlone :
    let p : Ports := { Ports.quiet with cmd := some 0x01000000#32 }
    let a := { built with ports := p, uopOut := 1#32, t0 := 1#32, acc := List.replicate 10 1#32 }
    let b := { a with t0 := 2#32, ports := { p with timeIn := [3#32] } }
    StateInv a ∧ eraseTime a = eraseTime b ∧ step a = .next { acceptClear a with phase := .idle } :=
  ⟨idle_inv _ _ _, rfl, rfl⟩
theorem witness_KnownSizePassCommitsTheClosedForm :
    let p : Ports := { Ports.quiet with inBytes := stereoData ++ [7#8] }
    let s := { inData stereoFmt (modeOf false false true 3#16) 16#32 false with ports := p }
    StateInv s ∧ s.ports.rst = false ∧ s.phase = .data ∧ s.primed = false ∧ s.eosf = false ∧
    s.ports.inBytes = stereoData ++ [7#8] ∧ stereoData.length = s.cnt.dsize.toNat ∧ 0 < stereoData.length ∧
    0 ∈ activeSet s.params.nacc s.mode :=
  ⟨data_inv _ _ rfl, rfl, rfl, rfl, rfl, rfl, rfl, by decide, by decide⟩
theorem witness_UnknownSizePassCommitsTheClosedForm :
    let p : Ports := { Ports.quiet with inBytes := stereoData, inEnd := true }
    let s := { inData stereoFmt (modeOf false false true 3#16) 0#32 false with ports := p }
    StateInv s ∧ s.ports.rst = false ∧ s.phase = .data ∧ s.primed = false ∧ s.eosf = false ∧
    s.cnt.dsize.toNat = 0 ∧ s.ports.inBytes = stereoData ∧ s.ports.inEnd = true ∧
    stereoData.length % s.fmt.ba.toNat = 0 :=
  ⟨data_inv _ _ rfl, rfl, rfl, rfl, rfl, rfl, rfl, rfl, by decide⟩
theorem witness_ValidFileYieldsItsChecksums :
    let m := modeOf false true true 3#16
    let p : Ports := { Ports.quiet with
      cmd := some (runWord m.report m.filt m.gran m.sel)
      inBytes := headerBytes 52#32 stereoFmt 16#32 ++ stereoData ++ [7#8] }
    let s := { built with ports := p, uopOut := 1#32, t0 := 1#32, acc := List.replicate 10 1#32 }
    StateInv s ∧ s.ports.rst = false ∧ s.phase.ready = true ∧
    s.ports.cmd = some (runWord m.report m.filt m.gran m.sel) ∧
    (∀ c, m.sel.getLsbD c = true → c < s.params.nacc ∧ c < stereoFmt.nch.toNat) ∧
    descriptorCheck stereoFmt = none ∧ stereoData.length = (16#32).toNat ∧ 0 < stereoData.length ∧
    stereoData.length % stereoFmt.ba.toNat = 0 ∧
    s.ports.inBytes = headerBytes 52#32 stereoFmt 16#32 ++ stereoData ++ [7#8] ∧
    0 ∈ activeSet s.params.nacc m := by
  refine ⟨idle_inv _ _ _, rfl, rfl, rfl, fun c hc => ?_, by decide, rfl, by decide, by decide, rfl, by decide⟩
  by_cases h16 : 16 ≤ c
  · exact absurd hc (by rw [BitVec.getLsbD_of_ge _ _ h16]; decide)
  · have key : ∀ c, c < 16 → (3#16).getLsbD c = true → c < 2 := by decide
    have h2 := key c (by omega) hc
    exact ⟨Nat.lt_of_lt_of_le h2 (by decide), h2⟩

end Sys2Proof.Tests
end

/-! Little-endian assembly (R15): appending a byte below a value scales the value by 256, so the fields
of the header (R99) have the value in which the byte at the lowest offset counts 1. -/

namespace Sys2Proof.Machine

/-- Appending a byte at the less significant end is a step in base 256. -/
theorem toNat_append_byte {n : Nat} (hi : BitVec n) (lo : Byte) :
    (hi ++ lo).toNat = lo.toNat + 256 * hi.toNat := by
  have hor : hi.toNat <<< 8 + lo.toNat = hi.toNat <<< 8 ||| lo.toNat :=
    Nat.shiftLeft_add_eq_or_of_lt lo.isLt hi.toNat
  rw [BitVec.toNat_append, ← hor, Nat.shiftLeft_eq]
  omega

/-- R15 for `LE16`, in any list and at any offset. -/
theorem le16_toNat (bs : List Byte) (k : Nat) :
    (le16 bs k).toNat = (byteAt bs k).toNat + 256 * (byteAt bs (k + 1)).toNat :=
  toNat_append_byte _ _

/-- R15 for `LE32`, in any list and at any offset. -/
theorem le32_toNat (bs : List Byte) (k : Nat) :
    (le32 bs k).toNat = (byteAt bs k).toNat + 256 * (byteAt bs (k + 1)).toNat +
      65536 * (byteAt bs (k + 2)).toNat + 16777216 * (byteAt bs (k + 3)).toNat := by
  rw [le32, toNat_append_byte, toNat_append_byte, toNat_append_byte]
  omega

/-- `LE16` sees only the two bytes from its offset on. -/
theorem le16_eq_le16_bytes (bs : List Byte) (k : Nat) :
    le16 bs k = le16 [byteAt bs k, byteAt bs (k + 1)] 0 := rfl

/-- `LE32` sees only the four bytes from its offset on. -/
theorem le32_eq_le32_bytes (bs : List Byte) (k : Nat) :
    le32 bs k = le32 [byteAt bs k, byteAt bs (k + 1), byteAt bs (k + 2), byteAt bs (k + 3)] 0 := rfl

/-- R99: the six registers of the descriptor, each from the bytes at its own offset. -/
theorem descriptorOf_eq_fields (f : List Byte) :
    descriptorOf f =
      { tag := le16 [byteAt f 0, byteAt f 1] 0
        nch := le16 [byteAt f 2, byteAt f 3] 0
        rate := le32 [byteAt f 4, byteAt f 5, byteAt f 6, byteAt f 7] 0
        brate := le32 [byteAt f 8, byteAt f 9, byteAt f 10, byteAt f 11] 0
        ba := le16 [byteAt f 12, byteAt f 13] 0
        bits := le16 [byteAt f 14, byteAt f 15] 0 } := by
  rw [descriptorOf, le16_eq_le16_bytes f 0, le16_eq_le16_bytes f 2, le32_eq_le32_bytes f 4,
    le32_eq_le32_bytes f 8, le16_eq_le16_bytes f 12, le16_eq_le16_bytes f 14]

/-- Settles O5: the values of the two assemblies, and the descriptor field by field. -/
theorem headerFieldsAreLittleEndian : Obligations.HeaderFieldsAreLittleEndian := by
  refine ⟨fun b0 b1 => ?le16, fun b0 b1 b2 b3 => ?le32, ?descriptor⟩
  case le16 => exact le16_toNat [b0, b1] 0
  case le32 => exact le32_toNat [b0, b1, b2, b3] 0
  case descriptor =>
    intro f0 f1 f2 f3 f4 f5 f6 f7 f8 f9 f10 f11 f12 f13 f14 f15
    exact descriptorOf_eq_fields
      [f0, f1, f2, f3, f4, f5, f6, f7, f8, f9, f10, f11, f12, f13, f14, f15]

end Sys2Proof.Machine

/-! What reset leaves in the result register file and on the sequencer (R50, R290), for any parameters, port
inputs and counter of free values. -/

namespace Sys2Proof.Machine

/-- R233: a multiple of 4 inside the file is answered with the register's content. -/
theorem readResult_of_aligned {s : State} {addr : Nat} (hle : addr ≤ 0xFC) (haligned : addr % 4 = 0) :
    readResult s addr = .next (resultRegister s addr) :=
  if_neg (by omega)

/-- R37 after R50: no flag, no outcome class and no mode tag is left. -/
theorem status_resetWith (params : Config.Params) (ports : Ports) (draws : Nat) :
    (State.resetWith params ports draws).status = 0#32 := by
  have houtcome : (State.resetWith params ports draws).outcome = 0 := rfl
  rw [State.status, houtcome]
  dsimp only [State.resetWith, Results.cleared]
  decide

/-- R50: the registers `CRC[i]` are 0, and the default of the register map is 0 beyond the last of them. -/
theorem cleared_crc_getD (nacc i : Nat) : (Results.cleared nacc).crc.getD i 0#32 = 0#32 := by
  rw [Results.cleared, List.getD_eq_getElem?_getD, List.getElem?_getD_replicate_default_eq]

/-- R50: reset leaves 0 at every address of the result register file. -/
theorem resultRegister_resetWith (params : Config.Params) (ports : Ports) (draws addr : Nat) :
    resultRegister (State.resetWith params ports draws) addr = 0#32 := by
  have hcrc (i : Nat) : (State.resetWith params ports draws).res.crc.getD i 0#32 = 0#32 :=
    cleared_crc_getD params.nacc i
  unfold resultRegister
  split
  case h_1 => exact status_resetWith params ports draws
  case h_16 => rw [hcrc, ite_self]
  all_goals rfl

/-- R221, R281: an accepting core to which the host offers nothing waits, its state unchanged. -/
theorem step_of_ready_of_no_command {s : State} (hrst : s.ports.rst = false) (hready : s.phase.ready = true)
    (hcmd : s.ports.cmd = none) : step s = .next s := by
  have hwait : select s = .wait := by rw [select_of_ready hready, selectCommand, hcmd]
  rw [step, hrst, hwait]
  rfl

/-- Settles O49: the stated registers are those of `State.resetWith`; the wait and the reads are cases of the
lemmas above. -/
theorem resetLeavesTheStatedValues : Obligations.ResetLeavesTheStatedValues := by
  have hwait : step State.reset = .next State.reset := step_of_ready_of_no_command rfl rfl rfl
  refine ⟨rfl, rfl, rfl, rfl, rfl, rfl, rfl, rfl, hwait, ?reads⟩
  case reads =>
    intro addr hle haligned
    rw [readResult_of_aligned hle haligned, State.reset, resultRegister_resetWith]

end Sys2Proof.Machine

/-! The command word by its fields (R91): two words with the same fields are equal, `&` acts on each field, and
so a match and mask of R96 is a condition on the fields that `decodeCmd` tests. -/

namespace Sys2Proof

/-- Two words that agree on a field agree on each of its bits. -/
theorem getLsbD_eq_of_extractLsb'_eq {v w : Word} {lo len i : Nat}
    (h : v.extractLsb' lo len = w.extractLsb' lo len) (hlo : lo ≤ i) (hhi : i < lo + len) :
    v.getLsbD i = w.getLsbD i := by
  have hbit := congrArg (BitVec.getLsbD · (i - lo)) h
  have hlen : i - lo < len := by omega
  simpa [BitVec.getLsbD_extractLsb', hlen, Nat.add_sub_of_le hlo] using hbit

/-- R91: the six fields cover the command word. -/
theorem cmdWord_ext {v w : Word} (hopc : cmdOpc v = cmdOpc w) (hrsv : cmdRsv v = cmdRsv w)
    (hreport : cmdReport v = cmdReport w) (hfilt : cmdFilt v = cmdFilt w) (hgran : cmdGran v = cmdGran w)
    (hchsel : cmdChsel v = cmdChsel w) : v = w := by
  refine BitVec.eq_of_getLsbD_eq fun i hi => ?_
  have hplace : i < 16 ∨ i = 16 ∨ i = 17 ∨ i = 18 ∨ (19 ≤ i ∧ i < 24) ∨ 24 ≤ i := by omega
  rcases hplace with hi16 | rfl | rfl | rfl | ⟨hi19, hi24⟩ | hi24
  · exact getLsbD_eq_of_extractLsb'_eq hchsel (Nat.zero_le i) (by omega)
  · exact hgran
  · exact hfilt
  · exact hreport
  · exact getLsbD_eq_of_extractLsb'_eq hrsv hi19 hi24
  · exact getLsbD_eq_of_extractLsb'_eq hopc hi24 hi

theorem cmdWord_ext_iff {v w : Word} :
    v = w ↔ cmdOpc v = cmdOpc w ∧ cmdRsv v = cmdRsv w ∧ cmdReport v = cmdReport w ∧ cmdFilt v = cmdFilt w ∧
      cmdGran v = cmdGran w ∧ cmdChsel v = cmdChsel w := by
  constructor
  · rintro rfl
    exact ⟨rfl, rfl, rfl, rfl, rfl, rfl⟩
  · rintro ⟨hopc, hrsv, hreport, hfilt, hgran, hchsel⟩
    exact cmdWord_ext hopc hrsv hreport hfilt hgran hchsel

theorem cmdChsel_eq_setWidth (w : Word) : cmdChsel w = w.setWidth 16 :=
  (BitVec.setWidth_eq_extractLsb' (by decide)).symm

/-! ### The fields of a masked word -/

@[simp] theorem cmdOpc_and (v w : Word) : cmdOpc (v &&& w) = cmdOpc v &&& cmdOpc w := BitVec.extractLsb'_and
@[simp] theorem cmdRsv_and (v w : Word) : cmdRsv (v &&& w) = cmdRsv v &&& cmdRsv w := BitVec.extractLsb'_and
@[simp] theorem cmdReport_and (v w : Word) : cmdReport (v &&& w) = (cmdReport v && cmdReport w) :=
  BitVec.getLsbD_and
@[simp] theorem cmdFilt_and (v w : Word) : cmdFilt (v &&& w) = (cmdFilt v && cmdFilt w) := BitVec.getLsbD_and
@[simp] theorem cmdGran_and (v w : Word) : cmdGran (v &&& w) = (cmdGran v && cmdGran w) := BitVec.getLsbD_and
@[simp] theorem cmdChsel_and (v w : Word) : cmdChsel (v &&& w) = cmdChsel v &&& cmdChsel w :=
  BitVec.extractLsb'_and

/-! ### The fields of the word of a `RUN` command -/

section
variable (report filt gran : Bool) (chsel : Half)

@[simp] theorem cmdOpc_runWord : cmdOpc (runWord report filt gran chsel) = 0x02#8 := by
  rw [cmdOpc, runWord]
  repeat rw [BitVec.extractLsb'_append_eq_of_le (by decide)]
  rfl

@[simp] theorem cmdRsv_runWord : cmdRsv (runWord report filt gran chsel) = 0#5 := by
  rw [cmdRsv, runWord]
  repeat rw [BitVec.extractLsb'_append_eq_of_le (by decide)]
  rfl

@[simp] theorem cmdReport_runWord : cmdReport (runWord report filt gran chsel) = report := by
  simp only [cmdReport, runWord, BitVec.getLsbD_append, BitVec.getLsbD_ofBool]
  simp

@[simp] theorem cmdFilt_runWord : cmdFilt (runWord report filt gran chsel) = filt := by
  simp only [cmdFilt, runWord, BitVec.getLsbD_append, BitVec.getLsbD_ofBool]
  simp

@[simp] theorem cmdGran_runWord : cmdGran (runWord report filt gran chsel) = gran := by
  simp only [cmdGran, runWord, BitVec.getLsbD_append, BitVec.getLsbD_ofBool]
  simp

@[simp] theorem cmdChsel_runWord : cmdChsel (runWord report filt gran chsel) = chsel := by
  rw [cmdChsel, runWord, BitVec.extractLsb'_append_eq_right]

end

/-! ### The patterns of R96 as conditions on the fields -/

/-- `TBUILD`: all 32 bits are fixed. -/
theorem eq_tbuildWord_iff (w : Word) :
    w = 0x01000000#32 ↔ cmdOpc w = 0x01#8 ∧ w.extractLsb' 0 24 = 0#24 := by
  constructor
  · rintro rfl
    exact ⟨rfl, rfl⟩
  · rintro ⟨hopc, hlow⟩
    have hsplit : cmdOpc w ++ w.extractLsb' 0 24 = w :=
      (BitVec.extractLsb'_append_extractLsb'_eq_extractLsb' rfl).trans BitVec.extractLsb'_eq_self
    rw [← hsplit, hopc, hlow]
    rfl

/-- The other four `RUN` commands: the mask keeps every field but `CHSEL`. -/
theorem and_runMask_eq_runWord_iff (w : Word) (report filt gran : Bool) :
    w &&& 0xFFFF0000#32 = runWord report filt gran 0#16 ↔
      cmdOpc w = 0x02#8 ∧ cmdRsv w = 0#5 ∧ cmdReport w = report ∧ cmdFilt w = filt ∧ cmdGran w = gran := by
  have hopc : cmdOpc w &&& cmdOpc 0xFFFF0000#32 = cmdOpc w := BitVec.and_allOnes
  have hrsv : cmdRsv w &&& cmdRsv 0xFFFF0000#32 = cmdRsv w := BitVec.and_allOnes
  have hreport : cmdReport 0xFFFF0000#32 = true := rfl
  have hfilt : cmdFilt 0xFFFF0000#32 = true := rfl
  have hgran : cmdGran 0xFFFF0000#32 = true := rfl
  have hchsel : cmdChsel 0xFFFF0000#32 = 0#16 := rfl
  rw [cmdWord_ext_iff]
  simp [hopc, hrsv, hreport, hfilt, hgran, hchsel]

/-- `RUN.RPT`: the mask keeps `OPC`, `RSV` and `REPORT`. -/
theorem and_reportMask_eq_runWord_iff (w : Word) :
    w &&& 0xFFFC0000#32 = runWord true false false 0#16 ↔
      cmdOpc w = 0x02#8 ∧ cmdRsv w = 0#5 ∧ cmdReport w = true := by
  have hopc : cmdOpc w &&& cmdOpc 0xFFFC0000#32 = cmdOpc w := BitVec.and_allOnes
  have hrsv : cmdRsv w &&& cmdRsv 0xFFFC0000#32 = cmdRsv w := BitVec.and_allOnes
  have hreport : cmdReport 0xFFFC0000#32 = true := rfl
  have hfilt : cmdFilt 0xFFFC0000#32 = false := rfl
  have hgran : cmdGran 0xFFFC0000#32 = false := rfl
  have hchsel : cmdChsel 0xFFFC0000#32 = 0#16 := rfl
  rw [cmdWord_ext_iff]
  simp [hopc, hrsv, hreport, hfilt, hgran, hchsel]

/-! ### What `decodeCmd` answers -/

/-- R96: a word with the `RUN` code and no reserved bit is the `RUN` command of its mode bits. -/
theorem decodeCmd_of_runFields {w : Word} (hopc : cmdOpc w = 0x02#8) (hrsv : cmdRsv w = 0#5) :
    decodeCmd w = .ok (decodeRun (cmdReport w) (cmdFilt w) (cmdGran w) (w.setWidth 16)) := by
  have hnotBuild : cmdOpc w ≠ 0x01#8 := by rw [hopc]; decide
  rw [decodeCmd, if_neg hnotBuild, if_pos hopc, if_pos hrsv, cmdChsel_eq_setWidth]

/-- R100: a word that is neither the `TBUILD` word nor has the fields of a `RUN` command is illegal. -/
theorem decodeCmd_error_of_not_pattern {w : Word} (hbuild : w ≠ 0x01000000#32)
    (hrun : ¬ (cmdOpc w = 0x02#8 ∧ cmdRsv w = 0#5)) : ∃ e, decodeCmd w = .error e := by
  rw [Ne, eq_tbuildWord_iff] at hbuild
  by_cases hopc1 : cmdOpc w = 0x01#8
  · have hlow : w.extractLsb' 0 24 ≠ 0#24 := fun h => hbuild ⟨hopc1, h⟩
    exact ⟨.tbuildOperand, by rw [decodeCmd, if_pos hopc1, if_neg hlow]⟩
  by_cases hopc2 : cmdOpc w = 0x02#8
  · have hrsv : cmdRsv w ≠ 0#5 := fun h => hrun ⟨hopc2, h⟩
    exact ⟨.reservedBits, by rw [decodeCmd, if_neg hopc1, if_pos hopc2, if_neg hrsv]⟩
  · exact ⟨.reservedOpcode, by rw [decodeCmd, if_neg hopc1, if_neg hopc2]⟩

/-- R96: a word under the mask of the mode bits is the `RUN` command of the match's mode bits. -/
theorem decodeCmd_of_runPattern {w : Word} (report filt gran : Bool)
    (h : w &&& 0xFFFF0000#32 = runWord report filt gran 0#16) :
    decodeCmd w = .ok (decodeRun report filt gran (w.setWidth 16)) := by
  obtain ⟨hopc, hrsv, rfl, rfl, rfl⟩ := (and_runMask_eq_runWord_iff w report filt gran).mp h
  exact decodeCmd_of_runFields hopc hrsv

/-- R96, `RUN.RPT`: `FILT` and `GRAN` are operands, whatever their value (R101). -/
theorem decodeCmd_of_reportPattern {w : Word} (h : w &&& 0xFFFC0000#32 = runWord true false false 0#16) :
    decodeCmd w = .ok (.runRpt (w.getLsbD 17) (w.getLsbD 16) (w.setWidth 16)) := by
  obtain ⟨hopc, hrsv, hreport⟩ := (and_reportMask_eq_runWord_iff w).mp h
  rw [decodeCmd_of_runFields hopc hrsv, hreport]
  rfl

/-- The five `RUN` patterns of R96 take in every word with the `RUN` code and no reserved bit. -/
theorem not_runFields_of_no_runPattern {w : Word}
    (hreport : w &&& 0xFFFC0000#32 ≠ runWord true false false 0#16)
    (hmode : ∀ filt gran, w &&& 0xFFFF0000#32 ≠ runWord false filt gran 0#16) :
    ¬ (cmdOpc w = 0x02#8 ∧ cmdRsv w = 0#5) := by
  rintro ⟨hopc, hrsv⟩
  cases hbit : cmdReport w with
  | true => exact hreport ((and_reportMask_eq_runWord_iff w).mpr ⟨hopc, hrsv, hbit⟩)
  | false =>
    exact hmode _ _ ((and_runMask_eq_runWord_iff w _ _ _).mpr ⟨hopc, hrsv, hbit, rfl, rfl⟩)

/-- Settles O3: each match of a `RUN` row is the `runWord` of its mode bits, and the rows leave out no word with
the fields of a command. -/
theorem commandWordsAreTheSixPatterns : Obligations.CommandWordsAreTheSixPatterns := by
  intro w
  have hfull : w &&& 0xFFFFFFFF#32 = w := BitVec.and_allOnes
  rw [hfull]
  refine ⟨?tbuild, decodeCmd_of_runPattern false false false,
    decodeCmd_of_runPattern false false true,
    decodeCmd_of_runPattern false true false,
    decodeCmd_of_runPattern false true true, decodeCmd_of_reportPattern, ?illegal⟩
  case tbuild =>
    rintro rfl
    rfl
  case illegal =>
    intro hbuild hblkAll hchAll hblkNn hchNn hreport
    refine decodeCmd_error_of_not_pattern hbuild (not_runFields_of_no_runPattern hreport ?_)
    intro filt gran
    cases filt with
    | false => cases gran with
      | false => exact hblkAll
      | true => exact hchAll
    | true => cases gran with
      | false => exact hblkNn
      | true => exact hchNn

end Sys2Proof

/-! The CRC-32 engine on fixed values: the table that R121 gives is the table that R128 lists, and so `crc32`
(R126) is a run over the listed constants (R129 (b)). -/

namespace Sys2Proof.Machine

/-- `TENTRY` (R121) of the 64 byte values from `start` on, a quarter of the table. -/
def tentryRun (start : Nat) : List Word :=
  (List.range' start 64).map fun i => tentry (BitVec.ofNat 8 i)

theorem builtTable_eq_tentryRuns :
    builtTable = tentryRun 0 ++ tentryRun 64 ++ tentryRun 128 ++ tentryRun 192 := by
  have hrange : List.range 256 =
      List.range' 0 64 ++ List.range' 64 64 ++ List.range' 128 64 ++ List.range' 192 64 := by
    rw [List.range_eq_range', List.range'_append_1, List.range'_append_1, List.range'_append_1]
  rw [builtTable, hrange, List.map_append, List.map_append, List.map_append]
  rfl

/-- R128: the entries are those of the list, evaluated quarter by quarter. -/
theorem builtTable_eq_listedTable : builtTable = listedTable := by
  have hrun0 : tentryRun 0 = listedTable0 := by decide +kernel
  have hrun1 : tentryRun 64 = listedTable1 := by decide +kernel
  have hrun2 : tentryRun 128 = listedTable2 := by decide +kernel
  have hrun3 : tentryRun 192 = listedTable3 := by decide +kernel
  rw [builtTable_eq_tentryRuns, hrun0, hrun1, hrun2, hrun3, listedTable]

/-- The first check sum of R128: already each quarter cancels under XOR. -/
theorem listedTable_foldl_xor : listedTable.foldl (fun x y => x ^^^ y) 0#32 = 0x00000000#32 := by
  have hxor0 : listedTable0.foldl (fun x y => x ^^^ y) 0#32 = 0#32 := by decide
  have hxor1 : listedTable1.foldl (fun x y => x ^^^ y) 0#32 = 0#32 := by decide
  have hxor2 : listedTable2.foldl (fun x y => x ^^^ y) 0#32 = 0#32 := by decide
  have hxor3 : listedTable3.foldl (fun x y => x ^^^ y) 0#32 = 0#32 := by decide
  simp only [listedTable, List.foldl_append, hxor0, hxor1, hxor2, hxor3]

/-- The second check sum of R128, from the running sums at the ends of the quarters. -/
theorem listedTable_foldl_add : listedTable.foldl (fun x y => x + y) 0#32 = 0xFFFFFF80#32 := by
  have hsum0 : listedTable0.foldl (fun x y => x + y) 0#32 = 0xFFFFBFE0#32 := by decide +kernel
  have hsum1 : listedTable1.foldl (fun x y => x + y) 0xFFFFBFE0#32 = 0xFFFF7FC0#32 := by decide +kernel
  have hsum2 : listedTable2.foldl (fun x y => x + y) 0xFFFF7FC0#32 = 0xFFFFBFA0#32 := by decide +kernel
  have hsum3 : listedTable3.foldl (fun x y => x + y) 0xFFFFBFA0#32 = 0xFFFFFF80#32 := by decide +kernel
  simp only [listedTable, List.foldl_append, hsum0, hsum1, hsum2, hsum3]

/-- Settles O9: the built table is the listed one, so its check sums are those of the list. -/
theorem builtTableIsTheListedTable : Obligations.BuiltTableIsTheListedTable := by
  unfold Obligations.BuiltTableIsTheListedTable
  rw [builtTable_eq_listedTable]
  exact ⟨rfl, listedTable_foldl_xor, listedTable_foldl_add⟩

/-- R121, R128: every entry by its index. -/
theorem tentry_eq_builtTable_getD (b : Byte) : tentry b = builtTable.getD b.toNat 0#32 := by
  simp [builtTable, List.getD_eq_getElem?_getD, b.isLt]

/-- R129 (b): the listed constants give the same `crc32` as the entries computed by R121. -/
theorem crc32_eq_over_listedTable (m : List Byte) :
    crc32 m = crcFin (crcFold (fun b => listedTable.getD b.toNat 0#32) Config.init m) := by
  simp only [crc32, tentry_eq_builtTable_getD, builtTable_eq_listedTable]

/-- R129 (c): the initial value and the final XOR cancel. -/
theorem crc32_nil : crc32 [] = 0#32 := BitVec.xor_self

/-- Settles O14: nine updates over the listed table end in the complement of the check value. -/
theorem crcOfTheCheckString : Obligations.CrcOfTheCheckString := by
  refine ⟨?check, crc32_nil⟩
  case check =>
    have hfold : crcFold (fun b => listedTable.getD b.toNat 0#32) Config.init
        [0x31#8, 0x32#8, 0x33#8, 0x34#8, 0x35#8, 0x36#8, 0x37#8, 0x38#8, 0x39#8] = 0x340BC6D9#32 := by
      decide
    rw [crc32_eq_over_listedTable, hfold]
    rfl

end Sys2Proof.Machine

/-! The dispatch of `Accumulate` (R203): the mode latch names an operation, and the accumulation of a buffer is
the execution of that operation. -/

namespace Sys2Proof.Machine

/-- The operation of the instruction set that R203 names. -/
def AccOp.instr : AccOp → Instr
  | .blkAll => .accBlkAll
  | .blkNn => .accBlkNn
  | .chAll => .accChAll
  | .chNn => .accChNn
  | .rpt => .accRpt

/-- `Accumulate` runs what the sequencer runs for the operation of the mode latch. -/
theorem accumulate_eq_exec (s : State) : accumulate s = exec (accOpOf s.mode).instr s := by
  unfold accumulate
  cases accOpOf s.mode with
  | blkAll => rfl
  | blkNn => rfl
  | chAll => rfl
  | chNn => rfl
  | rpt => rfl

/-- With `REPORT` = 1, neither `GRAN` nor `FILT` is read. -/
theorem accOpOf_of_report {m : Mode} (hr : m.report = true) : accOpOf m = .rpt :=
  if_pos hr

/-- The block modes: `FILT` alone decides whether null samples are fed. -/
theorem accOpOf_of_block {m : Mode} (hr : m.report = false) (hg : m.gran = false) :
    accOpOf m = if m.filt then .blkNn else .blkAll := by
  simp [accOpOf, hr, hg]

/-- The per-channel modes: `FILT` alone decides whether null samples are fed. -/
theorem accOpOf_of_channel {m : Mode} (hr : m.report = false) (hg : m.gran = true) :
    accOpOf m = if m.filt then .chNn else .chAll := by
  simp [accOpOf, hr, hg]

/-- Settles O33, row by row of R203's table. -/
theorem accumulateIsTheSelectedOperation : Obligations.AccumulateIsTheSelectedOperation := by
  intro s
  rw [accumulate_eq_exec]
  refine ⟨fun hr => ?rpt, fun hr hg hf => ?blkAll, fun hr hg hf => ?blkNn, fun hr hg hf => ?chAll,
    fun hr hg hf => ?chNn⟩
  case rpt => rw [accOpOf_of_report hr, AccOp.instr]
  case blkAll => rw [accOpOf_of_block hr hg, hf, if_neg Bool.false_ne_true, AccOp.instr]
  case blkNn => rw [accOpOf_of_block hr hg, hf, if_pos rfl, AccOp.instr]
  case chAll => rw [accOpOf_of_channel hr hg, hf, if_neg Bool.false_ne_true, AccOp.instr]
  case chNn => rw [accOpOf_of_channel hr hg, hf, if_pos rfl, AccOp.instr]

end Sys2Proof.Machine

/-! The end of a command in an error (R263, R264): the value of `STATUS` as the sum of its fields (R37), the
registers that a raise leaves, and the words that `Accept` refuses (R100). -/

namespace Sys2Proof.Machine

/-! ### `STATUS` as a number -/

/-- Appending `m` bits at the less significant end scales the value by `2 ^ m`. -/
theorem toNat_append_eq_add {n m : Nat} (hi : BitVec n) (lo : BitVec m) :
    (hi ++ lo).toNat = lo.toNat + 2 ^ m * hi.toNat := by
  have hor : hi.toNat <<< m + lo.toNat = hi.toNat <<< m ||| lo.toNat :=
    Nat.shiftLeft_add_eq_or_of_lt lo.isLt hi.toNat
  rw [BitVec.toNat_append, ← hor, Nat.shiftLeft_eq, Nat.add_comm, Nat.mul_comm]

/-- R37: each field of `STATUS` counts at its place. -/
theorem status_toNat (s : State) :
    s.status.toNat = s.phase.busy.toNat + 2 * (s.phase == .done).toNat + 4 * (s.phase == .err).toNat +
      8 * s.tvalid.toNat + 256 * (s.outcome % 4) + 65536 * s.res.modeTag.toNat := by
  simp only [State.status, toNat_append_eq_add, BitVec.toNat_ofBool, BitVec.toNat_ofNat]
  omega

/-- R268: the two configuration errors are class 3, every other error class 2. -/
theorem classOfCode_errCode (k : ErrKind) :
    classOfCode (errCode k) = if k = .invalidChannelSelector ∨ k = .invalidCommand then 3 else 2 := by
  cases k <;> rfl

/-- R251: `ERRKIND` holds every code whole. -/
theorem errCode_toNat (k : ErrKind) : (BitVec.ofNat 32 (errCode k)).toNat = errCode k := by
  cases k <;> rfl

/-- R263, R264: the mode bits stay, but for `InvalidCommand`, which has none. -/
theorem raiseErr_modeTag (k : ErrKind) (n sub e f : Nat) (s : State) :
    (raiseErr k n sub e f s).res.modeTag = if k = .invalidCommand then 0#3 else s.res.modeTag := rfl

/-- The class of the error raised is the outcome that `STATUS` shows (R37). -/
theorem raiseErr_outcome (k : ErrKind) (n sub e f : Nat) (s : State) :
    (raiseErr k n sub e f s).outcome =
      if k = .invalidChannelSelector ∨ k = .invalidCommand then 3 else 2 := by
  change classOfCode (BitVec.ofNat 32 (errCode k)).toNat = _
  rw [errCode_toNat, classOfCode_errCode]

/-- R264: `STATUS` after a raise. -/
theorem raiseErr_status_toNat (k : ErrKind) (n sub e f : Nat) (s : State) :
    (raiseErr k n sub e f s).status.toNat = 4 + 8 * (if s.tvalid then 1 else 0) +
      256 * (if k = .invalidChannelSelector ∨ k = .invalidCommand then 3 else 2) +
      65536 * (raiseErr k n sub e f s).res.modeTag.toNat := by
  rw [status_toNat, raiseErr_outcome, raiseErr_phase, raiseErr_tvalid]
  cases s.tvalid <;> split <;> rfl

/-! ### `RAISE` -/

theorem exec_raise (k : ErrKind) (n sub e f : Nat) (s : State) :
    exec (.raise k n sub e f) s = .next (raiseErr k n sub e f s) := rfl

/-- A context value is reduced to the register that holds it (log 19). -/
theorem ofNat_mod_word (n : Nat) : BitVec.ofNat 32 (n % 2 ^ 32) = BitVec.ofNat 32 n :=
  BitVec.eq_of_toNat_eq (by simp)

/-- Settles O42: the raised state is `raiseErr`, whose registers, mode tag and `STATUS` the lemmas above give; in
`ERR` a core to which nothing is offered waits. -/
theorem raiseWritesTheErrorRegisters : Obligations.RaiseWritesTheErrorRegisters := by
  intro k n sub e f s _
  refine ⟨raiseErr k n sub e f s, exec_raise k n sub e f s, ?registers, raiseErr_modeTag k n sub e f s,
    raiseErr_status_toNat k n sub e f s, ?wait⟩
  case registers =>
    rw [ofNat_mod_word, ofNat_mod_word]
    rfl
  case wait =>
    intro hrst hcmd
    exact step_of_ready_of_no_command hrst rfl hcmd

/-! ### Illegal command words -/

/-- `w >>> 24` is `OPC` (R91): the word has no bit above it. -/
theorem ushiftRight_eq_cmdOpc (w : Word) : w >>> 24 = (cmdOpc w).setWidth 32 := by
  refine BitVec.eq_of_toNat_eq ?_
  have hw : w.toNat < 2 ^ 32 := w.isLt
  simp only [cmdOpc, BitVec.toNat_ushiftRight, BitVec.toNat_setWidth, BitVec.extractLsb'_toNat,
    Nat.shiftRight_eq_div_pow]
  omega

/-- `(w >>> 19) & 0x1F` is `RSV` (R91): the mask keeps its five bits. -/
theorem ushiftRight_and_eq_cmdRsv (w : Word) : (w >>> 19) &&& 0x1F#32 = (cmdRsv w).setWidth 32 := by
  refine BitVec.eq_of_toNat_eq ?_
  have hmask : (0x1F#32).toNat = 2 ^ 5 - 1 := rfl
  simp only [cmdRsv, BitVec.toNat_and, hmask, Nat.and_two_pow_sub_one_eq_mod, BitVec.toNat_ushiftRight,
    BitVec.toNat_setWidth, BitVec.extractLsb'_toNat, Nat.shiftRight_eq_div_pow]
  omega

/-- R100: the three ways in which a word is no command. -/
theorem decodeCmd_error_of_illegal {w : Word}
    (h : w >>> 24 ≠ 0x01#32 ∧ w >>> 24 ≠ 0x02#32 ∨ w >>> 24 = 0x02#32 ∧ (w >>> 19) &&& 0x1F#32 ≠ 0#32 ∨
      w >>> 24 = 0x01#32 ∧ w &&& 0xFFFFFF#32 ≠ 0#32) : ∃ e, decodeCmd w = .error e := by
  have hrun : cmdOpc w = 0x02#8 → w >>> 24 = 0x02#32 := fun hopc => by
    rw [ushiftRight_eq_cmdOpc, hopc]
    rfl
  refine decodeCmd_error_of_not_pattern ?build ?run
  case build =>
    rintro rfl
    exact absurd h (by decide)
  case run =>
    rintro ⟨hopc, hrsv⟩
    rcases h with ⟨-, hnot⟩ | ⟨-, hnot⟩ | ⟨hbuild, -⟩
    · exact hnot (hrun hopc)
    · exact hnot (by rw [ushiftRight_and_eq_cmdRsv, hrsv]; rfl)
    · exact absurd (hbuild.symm.trans (hrun hopc)) (by decide)

/-- R220, R224: an accepting core rejects the offered word whole, in one step. -/
theorem step_of_decode_error {s : State} {w : Word} {e : DecodeError} (hrst : s.ports.rst = false)
    (hready : s.phase.ready = true) (hcmd : s.ports.cmd = some w) (herr : decodeCmd w = .error e) :
    step s = .next (acceptIllegal w s) := by
  have hillegal : select s = .illegal w := by
    rw [select_of_ready hready, selectCommand, hcmd]
    dsimp only
    rw [herr]
  rw [step, hrst, hillegal]
  rfl

/-- R263: what the rejection of a word leaves. -/
theorem acceptIllegal_eq (w : Word) (s : State) :
    acceptIllegal w s = { s with
      phase := .err
      ports := { s.ports with cmd := none }
      res := { Results.cleared s.params.nacc with errKind := 12#32, errFound := w } } := by
  rw [acceptIllegal, raiseErr, BitVec.ofNat_toNat, BitVec.setWidth_eq]
  rfl

/-- R263, R268: a configuration error, with the mode tag 0. -/
theorem acceptIllegal_status (w : Word) (s : State) :
    (acceptIllegal w s).status = if s.tvalid then 0x0000030C#32 else 0x00000304#32 := by
  refine BitVec.eq_of_toNat_eq ?_
  rw [acceptIllegal, raiseErr_status_toNat, raiseErr_modeTag, acceptClear_tvalid]
  cases s.tvalid <;> rfl

/-- Settles O19: each of the three forms fails to decode, and the rejection is a raise after the clear. -/
theorem illegalWordIsInvalidCommand : Obligations.IllegalWordIsInvalidCommand := by
  intro s w hrst hready hcmd hbad
  obtain ⟨e, herr⟩ := decodeCmd_error_of_illegal hbad
  exact ⟨acceptIllegal w s, step_of_decode_error hrst hready hcmd herr, acceptIllegal_eq w s,
    acceptIllegal_status w s⟩

end Sys2Proof.Machine

/-! Encoding against decoding (R91, R96, R97): the word of a command and the command of a word determine each
other. -/

namespace Sys2Proof

/-- R96: the word of a `RUN` command decodes to the command of its mode bits. -/
theorem decodeCmd_runWord (report filt gran : Bool) (chsel : Half) :
    decodeCmd (runWord report filt gran chsel) = .ok (decodeRun report filt gran chsel) := by
  rw [decodeCmd_of_runFields (cmdOpc_runWord ..) (cmdRsv_runWord ..), ← cmdChsel_eq_setWidth]
  simp only [cmdReport_runWord, cmdFilt_runWord, cmdGran_runWord, cmdChsel_runWord]

/-- R91: every field of a `RUN` command has its place in the word of the command. -/
theorem encode_decodeRun (report filt gran : Bool) (chsel : Half) :
    encode (decodeRun report filt gran chsel) = .word (runWord report filt gran chsel) := by
  cases report <;> cases filt <;> cases gran <;> rfl

theorem format_decodeRun (report filt gran : Bool) (chsel : Half) :
    (decodeRun report filt gran chsel).format = .cmd := by
  cases report <;> cases filt <;> cases gran <;> rfl

/-- R100, as conditions on the word: it is the `TBUILD` word, or it has the fields of a `RUN` command. -/
theorem decodeCmd_ok_fields {w : Word} {i : Instr} (h : decodeCmd w = .ok i) :
    (w = 0x01000000#32 ∧ i = .tbuild) ∨
    (cmdOpc w = 0x02#8 ∧ cmdRsv w = 0#5 ∧
      i = decodeRun (cmdReport w) (cmdFilt w) (cmdGran w) (cmdChsel w)) := by
  by_cases hbuild : w = 0x01000000#32
  · subst hbuild
    exact .inl ⟨rfl, (Except.ok.inj h).symm⟩
  · by_cases hrun : cmdOpc w = 0x02#8 ∧ cmdRsv w = 0#5
    · rw [decodeCmd_of_runFields hrun.1 hrun.2, ← cmdChsel_eq_setWidth] at h
      exact .inr ⟨hrun.1, hrun.2, (Except.ok.inj h).symm⟩
    · obtain ⟨e, he⟩ := decodeCmd_error_of_not_pattern hbuild hrun
      rw [he] at h
      exact absurd h (by simp)

/-- R91: a word with the fields of a `RUN` command is the word of that command. -/
theorem runWord_of_fields {w : Word} (hopc : cmdOpc w = 0x02#8) (hrsv : cmdRsv w = 0#5) :
    runWord (cmdReport w) (cmdFilt w) (cmdGran w) (cmdChsel w) = w := by
  refine cmdWord_ext ?_ ?_ ?_ ?_ ?_ ?_ <;> simp [hopc, hrsv]

/-- Settles O1: the fields of `runWord` are read back, the other encodings are constants; `UOP` rows have no
encoding. -/
theorem decodeOfEncodeIsTheOperation : Obligations.DecodeOfEncodeIsTheOperation := by
  rintro i - hformat
  cases i with
  | runBlkAll chsel => exact decodeCmd_runWord false false false chsel
  | runChAll chsel => exact decodeCmd_runWord false false true chsel
  | runBlkNn chsel => exact decodeCmd_runWord false true false chsel
  | runChNn chsel => exact decodeCmd_runWord false true true chsel
  | runRpt filt gran chsel => exact decodeCmd_runWord true filt gran chsel
  | tbuild | h1 | h2 | h3 | h4 | h5 | h6 | h7 | h8 => rfl
  | _ => exact absurd rfl hformat

/-- Settles O2: a legal word has all 32 bits of the word of its command. -/
theorem encodeOfDecodedCommandIsTheWord : Obligations.EncodeOfDecodedCommandIsTheWord := by
  intro w i h
  rcases decodeCmd_ok_fields h with ⟨rfl, rfl⟩ | ⟨hopc, hrsv, rfl⟩
  · exact ⟨rfl, rfl⟩
  · exact ⟨format_decodeRun .., by rw [encode_decodeRun, runWord_of_fields hopc hrsv]⟩

/-- Settles O4, word by word of the vectors. -/
theorem sampleCommandWordsDecode : Obligations.SampleCommandWordsDecode :=
  ⟨rfl, rfl, rfl, rfl, rfl, rfl, rfl, rfl, rfl⟩

end Sys2Proof

/-! What one step can do, as a relation with one constructor for each way it can end (R282): every statement that
holds of all steps is a case analysis over `Move`. -/

namespace Sys2Proof.Machine

/-! ### The read operations -/

/-- What a read that answers does to the state (R62): it takes its bytes off the front of the stream and counts
them; it obtains bytes only before the end was seen, and only if it asked for some. -/
theorem streamRead_consumes {n : Nat} {s s' : State} {r : List Byte} (h : streamRead n s = some (r, s')) :
    r.length ≤ s.ports.inBytes.length ∧ s'.pos = s.pos + r.length ∧
      s'.ports = { s.ports with inBytes := s.ports.inBytes.drop r.length } ∧
      (0 < r.length → s.eosf = false ∧ 0 < n) := by
  have hle := streamRead_length h
  rcases streamRead_some h with ⟨-, rfl, rfl⟩ | ⟨he, hl, rfl, rfl⟩ | ⟨he, hl, -, rfl, rfl⟩
  · simp
  · have hlen : (s.ports.inBytes.take n).length = n := List.length_take_of_le hl
    exact ⟨by omega, by rw [hlen]; rfl, by rw [hlen]; rfl, fun hpos => ⟨he, by omega⟩⟩
  · exact ⟨Nat.le_refl _, rfl, by rw [List.drop_length]; rfl, fun hpos => ⟨he, by omega⟩⟩

/-- What a read that answers leaves as it was: everything but `POS`, `EOSF` and the stream. -/
theorem streamRead_exists {n : Nat} {s s' : State} {r : List Byte} (h : streamRead n s = some (r, s')) :
    ∃ pos eosf bytes, s' = { s with pos := pos, eosf := eosf, ports := { s.ports with inBytes := bytes } } :=
  ⟨_, _, _, streamRead_frame h⟩

/-- The report extras write their nine registers, and spend a sample of the time input (R232). -/
theorem reportExtras_exists (s : State) :
    ∃ ts d, reportExtras s = { s with
      ports := { s.ports with timeIn := ts }
      draws := d
      res := { s.res with
        fmtTag := s.fmt.tag.setWidth 32, fmtNch := s.fmt.nch.setWidth 32
        fmtRate := s.fmt.rate, fmtByteRate := s.fmt.brate
        fmtAlign := s.fmt.ba.setWidth 32, fmtBits := s.fmt.bits.setWidth 32
        totalLo := s.cnt.tot.setWidth 32, totalHi := s.cnt.tot.extractLsb' 32 32
        elapsedMs := timeSample s - s.t0 } } :=
  timeAdvance_frame _

/-- Storing and accumulating a buffer writes `BUF`, the accumulators and `TOT` alone, and keeps the number of
accumulators. -/
theorem takeBuffer_frame {r : List Byte} {s t : State} (h : takeBuffer r s = .next t) :
    t = { s with
      buf := Memory.load s.buf r
      acc := t.acc
      cnt := { s.cnt with tot := s.cnt.tot + BitVec.ofNat 64 r.length } } ∧
    t.acc.length = s.acc.length := by
  obtain ⟨u, hu, rfl⟩ := takeBuffer_next h
  rw [accumulate_next hu]
  exact ⟨rfl, accAfter_length _ _ _⟩

/-! ### The header -/

/-- The ways a step in `PHASE = HEADER` can end (R140). -/
inductive HeaderMove (s : State) : State → Prop
  /-- The read blocks. -/
  | wait : HeaderMove s s
  /-- The read is short, or the field is not in order. -/
  | raised {n : Nat} {r : List Byte} {s' : State} (hread : streamRead n s = some (r, s')) {kind : ErrKind}
      (hkind : kind ≠ .invalidCommand) (expected found : Nat) :
      HeaderMove s (raiseErr kind s.step.val 0 expected found s')
  /-- A field of four bytes is in order. -/
  | advance {r : List Byte} {s' : State} (hread : streamRead 4 s = some (r, s')) {next : Fin 10}
      (hnext : next.val = s.step.val + 1) (hsix : s.step.val ≠ 6) (hlt : s.step.val < 8) :
      HeaderMove s { s' with step := next }
  /-- Step 6: the descriptor is written, then checked. -/
  | format (hstep : s.step = 6) {r : List Byte} {s' : State} (hread : streamRead 16 s = some (r, s')) :
      HeaderMove s (checkFormat { s' with fmt := descriptorOf r })
  /-- Step 8: `DSIZE` is written, and is no multiple of `BA`. -/
  | unaligned (hstep : s.step = 8) {r : List Byte} {s' : State} (hread : streamRead 4 s = some (r, s')) :
      HeaderMove s (raiseErr .dataNotAligned 8 0 s'.fmt.ba.toNat (le32 r 0).toNat
        { s' with cnt := { s'.cnt with dsize := le32 r 0 } })
  /-- Step 8: `DSIZE` is written, and the data phase entered. -/
  | enterData (hstep : s.step = 8) {r : List Byte} {s' : State} (hread : streamRead 4 s = some (r, s'))
      (haligned : (le32 r 0).toNat % s'.fmt.ba.toNat = 0) :
      HeaderMove s { s' with
        cnt := { s'.cnt with dsize := le32 r 0 }, phase := .data, step := 9, primed := false }

/-- R140: the operation that each step number selects. -/
theorem selectHeader_perform {s : State} {i : Instr} (h : selectHeader s = .perform i) :
    (s.step, i) ∈ [((1 : Fin 10), Instr.h1), (2, .h2), (3, .h3), (4, .h4), (5, .h5), (6, .h6), (7, .h7),
      (8, .h8)] := by
  unfold selectHeader at h
  generalize s.step = n at h ⊢
  fin_cases n <;> simp_all [decodeStep]

/-- The selection in `HEADER` is a header step or none at all. -/
theorem selectHeader_cases (s : State) : (∃ i, selectHeader s = .perform i) ∨ selectHeader s = .lost := by
  unfold selectHeader
  split
  · exact .inl ⟨_, rfl⟩
  · exact .inr rfl

/-- A header read blocks, is short, or goes on with its bytes. -/
theorem readHdr_move {k n : Nat} {s t : State} {use : List Byte → State → Host.Outcome State Fault Refusal}
    (hk : s.step.val = k) (h : readHdr k n s use = .next t)
    (huse : ∀ r s', streamRead n s = some (r, s') → use r s' = .next t → HeaderMove s t) : HeaderMove s t := by
  subst hk
  rcases readHdr_next h with ⟨-, rfl⟩ | ⟨r, s', hread, -, rfl⟩ | ⟨r, s', hread, -, hu⟩
  · exact .wait
  · exact .raised hread (by decide) _ _
  · exact huse r s' hread hu

/-- A tag step goes on to the next step number, if it does not block or raise. -/
theorem constStep_move {k : Nat} {s t : State} {next : Fin 10} {e : Word} {kind : ErrKind}
    (hk : s.step.val = k) (hkind : kind ≠ .invalidCommand) (hnext : next.val = k + 1) (hsix : k ≠ 6)
    (hlt : k < 8) (h : constStep k next e kind s = .next t) : HeaderMove s t := by
  refine readHdr_move hk h fun r s' hread hu => ?_
  subst hk
  split at hu
  · obtain rfl : t = { s' with step := next } := by simpa using hu.symm
    exact .advance hread hnext hsix hlt
  · obtain rfl : t = raiseErr kind s.step.val 0 e.toNat (le32 r 0).toNat s' := by simpa using hu.symm
    exact .raised hread hkind _ _

/-- R140: the operation of the step that `STEP` names ends as `HeaderMove` says. -/
theorem exec_headerMove {s t : State} {i : Instr} (hsel : selectHeader s = .perform i)
    (h : exec i s = .next t) : HeaderMove s t := by
  have hmem := selectHeader_perform hsel
  simp only [List.mem_cons, Prod.mk.injEq, List.mem_nil_iff, or_false] at hmem
  rcases hmem with ⟨hs, rfl⟩ | ⟨hs, rfl⟩ | ⟨hs, rfl⟩ | ⟨hs, rfl⟩ | ⟨hs, rfl⟩ | ⟨hs, rfl⟩ | ⟨hs, rfl⟩ |
    ⟨hs, rfl⟩ <;> have hval := congrArg Fin.val hs
  · exact constStep_move hval (by decide) rfl (by decide) (by decide) h
  · refine readHdr_move hval h fun r s' hread hu => ?_
    obtain rfl : t = { s' with step := 3 } := by simpa using hu.symm
    exact .advance hread (by rw [hval]; rfl) (by rw [hval]; decide) (by rw [hval]; decide)
  · exact constStep_move hval (by decide) rfl (by decide) (by decide) h
  · exact constStep_move hval (by decide) rfl (by decide) (by decide) h
  · exact constStep_move hval (by decide) rfl (by decide) (by decide) h
  · refine readHdr_move hval h fun r s' hread hu => ?_
    obtain rfl : t = checkFormat { s' with fmt := descriptorOf r } := by simpa using hu.symm
    exact .format hs hread
  · exact constStep_move hval (by decide) rfl (by decide) (by decide) h
  · refine readHdr_move hval h fun r s' hread hu => ?_
    rcases checkDataSize_next hu with ⟨-, -, rfl⟩ | ⟨haligned, rfl⟩
    · exact HeaderMove.unaligned (s' := s') hs hread
    · exact HeaderMove.enterData (s' := s') hs hread haligned

/-! ### The data phase -/

/-- The ways a step in `PHASE = DATA` can end (R172 to R175). -/
inductive DataMove (s : State) : State → Prop
  /-- The start of the loop (R172). -/
  | start (hprimed : s.primed = false) : DataMove s (dataStart s)
  /-- The read blocks. -/
  | wait : DataMove s s
  /-- The commit of a pass without a report (R230). -/
  | commit (hreport : s.mode.report = false) : DataMove s (commitPlain s)
  /-- The commit of a report pass (R230, R232). -/
  | commitReport (hreport : s.mode.report = true) : DataMove s (reportExtras (commitPlain s))
  /-- A read cut short. -/
  | raised {n : Nat} {r : List Byte} {s' : State} (hread : streamRead n s = some (r, s'))
      (hnext : nextRead s = some n) {kind : ErrKind} (hkind : kind ≠ .invalidCommand) (c : Counters)
      (expected found : Nat) : DataMove s (raiseErr kind 9 0 expected found { s' with cnt := c })
  /-- A buffer of a chunk of known size (R173). -/
  | known (hprimed : s.primed = true) (hsize : s.cnt.dsize.toNat ≠ 0) {r : List Byte} {s' u : State}
      (hread : streamRead (knownRequest s) s = some (r, s')) (hnext : nextRead s = some (knownRequest s))
      (hlen : r.length = knownRequest s)
      (htake : takeBuffer r (noteRead (knownRequest s) r.length s') = .next u) :
      DataMove s (spendRem r.length u)
  /-- A buffer of a chunk of unknown size (R174), full or the last one. -/
  | unknown (hprimed : s.primed = true) (hsize : s.cnt.dsize.toNat = 0) {r : List Byte} {s' u : State}
      (hread : streamRead s.bufsz.toNat s = some (r, s')) (hnext : nextRead s = some s.bufsz.toNat)
      {c : Counters} (hc : c.dsize = s.cnt.dsize) (htake : takeBuffer r { s' with cnt := c } = .next u) :
      DataMove s u

/-- A read leaves `DSIZE` as it was. -/
theorem streamRead_dsize {n : Nat} {s s' : State} {r : List Byte} (h : streamRead n s = some (r, s')) :
    s'.cnt.dsize = s.cnt.dsize := by
  obtain ⟨_, _, _, rfl⟩ := streamRead_exists h
  rfl

/-- R230: the commit is the plain one, or the one with the extras. -/
theorem execCommit_move {s t : State} (h : execCommit s = .next t) : DataMove s t := by
  unfold execCommit at h
  split at h
  · next hreport =>
    obtain rfl : t = reportExtras (commitPlain s) := by simpa using h.symm
    exact .commitReport hreport
  · next hreport =>
    obtain rfl : t = commitPlain s := by simpa using h.symm
    exact .commit (by simpa using hreport)

/-- R174: an iteration with an unknown size. -/
theorem execRdbufUnknown_move {s t : State} (hprimed : s.primed = true) (hsize : s.cnt.dsize.toNat = 0)
    (hnext : nextRead s = some s.bufsz.toNat) (h : execRdbufUnknown s = .next t) : DataMove s t := by
  rcases execRdbufUnknown_next h with ⟨-, rfl⟩ | ⟨r, s', hread, -, -, rfl⟩ | ⟨r, s', hread, -, -, htake⟩ |
    ⟨r, s', hread, -, htake⟩
  · exact .wait
  · exact .raised hread hnext (by decide) _ _ _
  · have hc : s'.cnt.dsize = s.cnt.dsize := streamRead_dsize hread
    exact .unknown (c := (noteLast (noteRead s.bufsz.toNat r.length s')).cnt) hprimed hsize hread hnext hc htake
  · have hc : s'.cnt.dsize = s.cnt.dsize := streamRead_dsize hread
    exact .unknown (c := (noteRead s.bufsz.toNat r.length s').cnt) hprimed hsize hread hnext hc htake

/-- R173: an iteration with a known size. -/
theorem execRdbufKnown_move {s t : State} (hprimed : s.primed = true) (hsize : s.cnt.dsize.toNat ≠ 0)
    (hnext : nextRead s = some (knownRequest s)) (h : execRdbufKnown s = .next t) : DataMove s t := by
  rcases execRdbufKnown_next h with ⟨-, rfl⟩ | ⟨r, s', hread, -, rfl⟩ | ⟨r, s', u, hread, hlen, htake, rfl⟩
  · exact .wait
  · exact .raised hread hnext (by decide) _ _ _
  · exact .known hprimed hsize hread hnext hlen htake

/-- A step of the data phase that answers is one of `DataMove`. -/
theorem step_dataMove {s t : State} (hrst : s.ports.rst = false) (hphase : s.phase = .data)
    (h : step s = .next t) : s.step = 9 ∧ DataMove s t := by
  have hsel : select s = selectData s := by simp [select, hphase]
  unfold step at h
  simp only [hrst, hsel, Bool.false_eq_true, if_false] at h
  rcases selectData_cases s with ⟨-, hd⟩ | ⟨hnine, hprimed, hd⟩ | ⟨hnine, hprimed, -, hd⟩ |
    ⟨hnine, hprimed, -, hsize, hd⟩ | ⟨hnine, hprimed, -, hsize, hd⟩ <;>
    simp only [hd] at h
  · exact absurd h (by simp)
  · obtain rfl : t = dataStart s := by simpa using h.symm
    exact ⟨hnine, .start hprimed⟩
  · exact ⟨hnine, execCommit_move h⟩
  · exact ⟨hnine, execRdbufUnknown_move hprimed hsize (by simp [nextRead, hsel, hd]) h⟩
  · exact ⟨hnine, execRdbufKnown_move hprimed hsize (by simp [nextRead, hsel, hd, knownRequest]) h⟩

/-! ### The step -/

/-- The ways a step can end (R282, R290). -/
inductive Move (s : State) : State → Prop
  /-- `rst` is asserted. -/
  | reset (hrst : s.ports.rst = true) : Move s (resetCore s)
  /-- No command is offered. -/
  | idle (hready : s.phase.ready = true) : Move s s
  /-- A word that is no command (R263). -/
  | illegal (hready : s.phase.ready = true) (w : Word) : Move s (acceptIllegal w s)
  /-- `TBUILD` over a valid table (R223). -/
  | tbuild (hready : s.phase.ready = true) (hvalid : s.tvalid = true) :
      Move s { acceptClear s with phase := .idle }
  /-- `TBUILD` before the build (R223). -/
  | tbuildWaits (hready : s.phase.ready = true) (hvalid : s.tvalid = false) :
      Move s { acceptClear s with phase := .tbuild, runPending := false }
  /-- A `RUN` command with a selector beyond the accumulator file (R224). -/
  | refuse (hready : s.phase.ready = true) (report filt gran : Bool) (chsel : Half) (c : Nat) :
      Move s (raiseErr .invalidChannelSelector 0 0 (s.params.nacc - 1) c
        (latchRun report filt gran chsel (acceptClear s)))
  /-- A `RUN` command (R225). -/
  | run (hready : s.phase.ready = true) (report filt gran : Bool) (chsel : Half) :
      Move s (startRun (latchRun report filt gran chsel (acceptClear s)))
  /-- The table build (R122). -/
  | build (hphase : s.phase = .tbuild) (hvalid : s.tvalid = false) : Move s (tbuildLoop s)
  /-- What follows the build, over a valid table (log 3). -/
  | buildDone (hphase : s.phase = .tbuild) (hvalid : s.tvalid = true) : Move s (afterBuild s)
  /-- A header step. -/
  | header (hphase : s.phase = .header) (hstep : 1 ≤ s.step.val ∧ s.step.val ≤ 8) {t : State}
      (h : HeaderMove s t) : Move s t
  /-- A step of the data phase. -/
  | data (hphase : s.phase = .data) (hstep : s.step = 9) {t : State} (h : DataMove s t) : Move s t

/-- Where a command is accepted, a step that answers is one of `Move`. -/
theorem step_move_of_ready {s t : State} (hrst : s.ports.rst = false) (hready : s.phase.ready = true)
    (h : step s = .next t) : Move s t := by
  unfold step at h
  simp only [hrst, select_of_ready hready, Bool.false_eq_true, if_false] at h
  rcases selectCommand_cases s with hc | ⟨w, hc⟩ | hc | ⟨report, filt, gran, chsel, hc⟩ <;> simp only [hc] at h
  · obtain rfl : s = t := by simpa using h
    exact .idle hready
  · obtain rfl : t = acceptIllegal w s := by simpa using h.symm
    exact .illegal hready w
  · rcases execTbuild_next h with ⟨hbusy, -⟩ | ⟨-, hvalid, rfl⟩ | ⟨-, hvalid, rfl⟩
    · exact absurd hready (by simp [hbusy])
    · exact .tbuild hready hvalid
    · exact .tbuildWaits hready hvalid
  · rw [exec_decodeRun] at h
    rcases acceptRun_next h with ⟨hbusy, -⟩ | ⟨-, c, cs, -, rfl⟩ | ⟨-, -, rfl⟩
    · exact absurd hready (by simp [hbusy])
    · exact .refuse hready report filt gran chsel c
    · exact .run hready report filt gran chsel

/-- A step number that selects an operation is 1 to 8 (R24). -/
theorem selectHeader_step {s : State} {i : Instr} (h : selectHeader s = .perform i) :
    1 ≤ s.step.val ∧ s.step.val ≤ 8 := by
  have hmem := selectHeader_perform h
  simp only [List.mem_cons, Prod.mk.injEq, List.mem_nil_iff, or_false] at hmem
  rcases hmem with ⟨hs, -⟩ | ⟨hs, -⟩ | ⟨hs, -⟩ | ⟨hs, -⟩ | ⟨hs, -⟩ | ⟨hs, -⟩ | ⟨hs, -⟩ | ⟨hs, -⟩ <;>
    simp [hs]

/-- Every step that answers is one of `Move`. -/
theorem step_move {s t : State} (h : step s = .next t) : Move s t := by
  cases hrst : s.ports.rst with
  | true =>
    obtain rfl : t = resetCore s := by simpa [step, hrst] using h.symm
    exact .reset hrst
  | false =>
    cases hphase : s.phase with
    | idle | done | err => exact step_move_of_ready hrst (by rw [hphase]; rfl) h
    | tbuild =>
      cases hvalid : s.tvalid with
      | true =>
        obtain rfl : t = afterBuild s := by simpa [step, hrst, select, hphase, hvalid] using h.symm
        exact .buildDone hphase hvalid
      | false =>
        have hexec : exec .tbuildLoop s = .next t := by simpa [step, hrst, select, hphase, hvalid] using h
        obtain rfl : t = tbuildLoop s := by simpa [exec, execTbuildLoop] using hexec.symm
        exact .build hphase hvalid
    | header =>
      have hsel : select s = selectHeader s := by simp [select, hphase]
      rcases selectHeader_cases s with ⟨i, hi⟩ | hlost
      · have hexec : exec i s = .next t := by simpa [step, hrst, hsel, hi] using h
        exact .header hphase (selectHeader_step hi) (exec_headerMove hi hexec)
      · exact absurd h (by simp [step, hrst, hsel, hlost])
    | data =>
      obtain ⟨hnine, hmove⟩ := step_dataMove hrst hphase h
      exact .data hphase hnine hmove

end Sys2Proof.Machine

/-! The invariant phase by phase: what holds of every state, and what each phase adds. The two together are
`StateInv`, and each constructor of `Move` keeps them. -/

namespace Sys2Proof.Machine

/-! ### The invariant by phase -/

/-- The part of the invariant in which no phase is named. -/
structure CommonInv (s : State) : Prop where
  params : s.params.Wf
  accSize : s.acc.length = s.params.nacc
  tableSize : s.table.length = 256
  buf : Memory.wf s.buf = true
  tableBuilt : s.tvalid = true → s.table = builtTable

/-- The result registers of a command that has not ended: 0, but for the mode tag (R228, R229). -/
def ResultsPending (s : State) : Prop :=
  s.res = { Results.cleared s.params.nacc with modeTag := s.res.modeTag }

/-- `PHASE = TBUILD`. -/
structure BuildInv (s : State) : Prop where
  table : s.tvalid = false
  results : ResultsPending s
  tag : s.res.modeTag = if s.runPending then latchedTag s else 0#3

/-- `PHASE = HEADER`. -/
structure HeaderInv (s : State) : Prop where
  table : s.tvalid = true
  step : 1 ≤ s.step.val ∧ s.step.val ≤ 8
  format : 7 ≤ s.step.val → FormatOk s
  results : ResultsPending s
  tag : s.res.modeTag = latchedTag s

/-- `PHASE = DATA`. -/
structure DataInv (s : State) : Prop where
  table : s.tvalid = true
  step : s.step = 9
  format : FormatOk s
  aligned : s.cnt.dsize.toNat % s.fmt.ba.toNat = 0
  rem : s.primed = true → s.cnt.dsize.toNat ≠ 0 →
    s.cnt.rem.toNat % s.fmt.ba.toNat = 0 ∧ s.cnt.tot.toNat + s.cnt.rem.toNat = s.cnt.dsize.toNat
  results : ResultsPending s
  tag : s.res.modeTag = latchedTag s

/-- `PHASE = DONE`. -/
structure DoneInv (s : State) : Prop where
  valid : s.res.valid = validWord (activeSet s.params.nacc s.mode)
  crc : s.res.crc = committedCrc s.params.nacc (activeSet s.params.nacc s.mode) s.acc
  noError : NoError s.res
  extras : s.mode.report = false → NoExtras s.res
  tag : s.res.modeTag = latchedTag s

/-- `PHASE = ERR`. -/
structure ErrInv (s : State) : Prop where
  noResult : s.res.valid = 0#32 ∧ s.res.crc = List.replicate s.params.nacc 0#32 ∧ NoExtras s.res
  kind : ∃ k : ErrKind, s.res.errKind = BitVec.ofNat 32 (errCode k) ∧
    (k = .invalidCommand → s.res.modeTag = 0#3)

/-- The part of the invariant that belongs to the phase. -/
def PhaseInv (s : State) : Prop :=
  match s.phase with
  | .idle => s.res = Results.cleared s.params.nacc
  | .tbuild => BuildInv s
  | .header => HeaderInv s
  | .data => DataInv s
  | .done => DoneInv s
  | .err => ErrInv s

section
variable {s : State}

theorem PhaseInv.idle (h : PhaseInv s) (hphase : s.phase = .idle) : s.res = Results.cleared s.params.nacc := by
  simpa only [PhaseInv, hphase] using h

theorem PhaseInv.build (h : PhaseInv s) (hphase : s.phase = .tbuild) : BuildInv s := by
  simpa only [PhaseInv, hphase] using h

theorem PhaseInv.header (h : PhaseInv s) (hphase : s.phase = .header) : HeaderInv s := by
  simpa only [PhaseInv, hphase] using h

theorem PhaseInv.data (h : PhaseInv s) (hphase : s.phase = .data) : DataInv s := by
  simpa only [PhaseInv, hphase] using h

theorem PhaseInv.done (h : PhaseInv s) (hphase : s.phase = .done) : DoneInv s := by
  simpa only [PhaseInv, hphase] using h

theorem PhaseInv.err (h : PhaseInv s) (hphase : s.phase = .err) : ErrInv s := by
  simpa only [PhaseInv, hphase] using h

theorem PhaseInv.of_header (hphase : s.phase = .header) (h : HeaderInv s) : PhaseInv s := by
  simpa only [PhaseInv, hphase] using h

theorem PhaseInv.of_data (hphase : s.phase = .data) (h : DataInv s) : PhaseInv s := by
  simpa only [PhaseInv, hphase] using h

theorem noExtras_cleared (nacc : Nat) (tag : BitVec 3) :
    NoExtras { Results.cleared nacc with modeTag := tag } :=
  ⟨rfl, rfl, rfl, rfl, rfl, rfl, rfl, rfl, rfl⟩

/-- Pending result registers hold no result. -/
theorem ResultsPending.noResult (h : ResultsPending s) :
    s.res.valid = 0#32 ∧ s.res.crc = List.replicate s.params.nacc 0#32 ∧ NoExtras s.res := by
  rw [h]
  exact ⟨rfl, rfl, noExtras_cleared _ _⟩

/-- Pending result registers hold no error. -/
theorem ResultsPending.noError (h : ResultsPending s) : NoError s.res := by
  rw [h]
  exact ⟨rfl, rfl, rfl, rfl⟩

/-- Registers that hold neither a result nor an error are pending. -/
theorem ResultsPending.of_empty
    (hres : s.res.valid = 0#32 ∧ s.res.crc = List.replicate s.params.nacc 0#32 ∧ NoExtras s.res)
    (herr : NoError s.res) : ResultsPending s := by
  obtain ⟨hvalid, hcrc, hextras⟩ := hres
  unfold ResultsPending
  cases hr : s.res
  simp only [hr] at hvalid hcrc hextras herr
  obtain ⟨h1, h2, h3, h4⟩ := herr
  obtain ⟨h5, h6, h7, h8, h9, h10, h11, h12, h13⟩ := hextras
  simp only at h1 h2 h3 h4 h5 h6 h7 h8 h9 h10 h11 h12 h13 hvalid hcrc
  subst h1 h2 h3 h4 h5 h6 h7 h8 h9 h10 h11 h12 h13 hvalid hcrc
  rfl

/-- Cleared registers are pending. -/
theorem ResultsPending.of_cleared (h : s.res = Results.cleared s.params.nacc) : ResultsPending s := by
  unfold ResultsPending
  rw [h]

/-- In every phase but `DONE` and `ERR` the result registers are pending. -/
theorem PhaseInv.pending (h : PhaseInv s) (hdone : s.phase ≠ .done) (herr : s.phase ≠ .err) :
    ResultsPending s := by
  cases hphase : s.phase with
  | idle => exact .of_cleared (h.idle hphase)
  | tbuild => exact (h.build hphase).results
  | header => exact (h.header hphase).results
  | data => exact (h.data hphase).results
  | done => exact absurd hphase hdone
  | err => exact absurd hphase herr

/-- Outside `DONE` no result register holds a result. -/
theorem PhaseInv.noResult (h : PhaseInv s) (hdone : s.phase ≠ .done) :
    s.res.valid = 0#32 ∧ s.res.crc = List.replicate s.params.nacc 0#32 ∧ NoExtras s.res := by
  by_cases herr : s.phase = .err
  · exact (h.err herr).noResult
  · exact (h.pending hdone herr).noResult

/-- Outside `ERR` no error register holds an error. -/
theorem PhaseInv.noError (h : PhaseInv s) (herr : s.phase ≠ .err) : NoError s.res := by
  by_cases hdone : s.phase = .done
  · exact (h.done hdone).noError
  · exact (h.pending hdone herr).noError

/-- The two parts make up the invariant. -/
theorem StateInv.of_parts (hc : CommonInv s) (hp : PhaseInv s) : StateInv s where
  params := hc.params
  accSize := hc.accSize
  crcSize := by
    by_cases hdone : s.phase = .done
    · rw [(hp.done hdone).crc, committedCrc, List.length_map, List.length_range]
    · rw [(hp.noResult hdone).2.1, List.length_replicate]
  tableSize := hc.tableSize
  buf := hc.buf
  tableBuilt := hc.tableBuilt
  headerStep h := (hp.header h).step
  dataStep h := (hp.data h).step
  passTable h := h.elim (fun h => (hp.header h).table) fun h => (hp.data h).table
  buildNeeded h := (hp.build h).table
  headerFormat h := (hp.header h).format
  dataFormat h := (hp.data h).format
  dataAligned h := (hp.data h).aligned
  remAligned h := (hp.data h).rem
  noResult h := hp.noResult h
  noError h := hp.noError h
  errorKind h := (hp.err h).kind
  results h := ⟨(hp.done h).valid, (hp.done h).crc⟩
  extras h := (hp.done h).extras
  tagPass h := by
    rcases h with h | h | h
    · exact (hp.header h).tag
    · exact (hp.data h).tag
    · exact (hp.done h).tag
  tagBuild h := (hp.build h).tag
  tagIdle h := by rw [hp.idle h]; rfl

theorem StateInv.common (h : StateInv s) : CommonInv s :=
  ⟨h.params, h.accSize, h.tableSize, h.buf, h.tableBuilt⟩

/-- In every phase but `DONE` and `ERR` the result registers are pending. -/
theorem StateInv.pending (h : StateInv s) (hdone : s.phase ≠ .done) (herr : s.phase ≠ .err) :
    ResultsPending s :=
  .of_empty (h.noResult hdone) (h.noError herr)

theorem StateInv.headerInv (h : StateInv s) (hphase : s.phase = .header) : HeaderInv s where
  table := h.passTable (.inl hphase)
  step := h.headerStep hphase
  format := h.headerFormat hphase
  results := h.pending (by simp [hphase]) (by simp [hphase])
  tag := h.tagPass (.inl hphase)

theorem StateInv.dataInv (h : StateInv s) (hphase : s.phase = .data) : DataInv s where
  table := h.passTable (.inr hphase)
  step := h.dataStep hphase
  format := h.dataFormat hphase
  aligned := h.dataAligned hphase
  rem := h.remAligned hphase
  results := h.pending (by simp [hphase]) (by simp [hphase])
  tag := h.tagPass (.inr (.inl hphase))

theorem StateInv.buildInv (h : StateInv s) (hphase : s.phase = .tbuild) : BuildInv s where
  table := h.buildNeeded hphase
  results := h.pending (by simp [hphase]) (by simp [hphase])
  tag := h.tagBuild hphase

/-! ### The updates of the state keep what no phase names -/

/-- The common part is about five fields only. -/
theorem CommonInv.of_eq {t : State} (h : CommonInv s) (hparams : t.params = s.params) (hacc : t.acc = s.acc)
    (htable : t.table = s.table) (hbuf : t.buf = s.buf) (hvalid : t.tvalid = s.tvalid) : CommonInv t := by
  refine ⟨?_, ?_, ?_, ?_, ?_⟩
  · rw [hparams]; exact h.params
  · rw [hacc, hparams]; exact h.accSize
  · rw [htable]; exact h.tableSize
  · rw [hbuf]; exact h.buf
  · rw [hvalid, htable]; exact h.tableBuilt

theorem CommonInv.acceptClear (h : CommonInv s) : CommonInv (acceptClear s) := h.of_eq rfl rfl rfl rfl rfl

theorem CommonInv.latchRun (h : CommonInv s) (report filt gran : Bool) (chsel : Half) :
    CommonInv (latchRun report filt gran chsel s) := by
  apply h.of_eq <;> simp [Machine.latchRun]

theorem CommonInv.startRun (h : CommonInv s) : CommonInv (startRun s) := by
  apply h.of_eq <;> simp

theorem CommonInv.streamRead {n : Nat} {r : List Byte} {s' : State} (h : CommonInv s)
    (hread : streamRead n s = some (r, s')) : CommonInv s' := by
  obtain ⟨pos, eosf, bytes, rfl⟩ := streamRead_exists hread
  exact h.of_eq rfl rfl rfl rfl rfl

/-- A buffer goes to `BUF` in its canonical form, and keeps the number of accumulators. -/
theorem CommonInv.takeBuffer {r : List Byte} {t : State} (h : CommonInv s)
    (htake : takeBuffer r s = .next t) : CommonInv t := by
  obtain ⟨ht, hacc⟩ := takeBuffer_frame htake
  rw [ht]
  exact ⟨h.params, hacc.trans h.accSize, h.tableSize, Memory.wf_load _ _ h.buf, h.tableBuilt⟩

theorem builtTable_length : builtTable.length = 256 := by rw [builtTable, List.length_map, List.length_range]

theorem CommonInv.tbuildLoop (h : CommonInv s) (hvalid : s.tvalid = false) : CommonInv (tbuildLoop s) where
  params := by simpa using h.params
  accSize := by simpa using h.accSize
  tableSize := by simp [hvalid, builtTable_length]
  buf := by simpa using h.buf
  tableBuilt := by simp [hvalid]

theorem CommonInv.resetCore (h : CommonInv s) : CommonInv (resetCore s) where
  params := h.params
  accSize := List.length_replicate
  tableSize := List.length_replicate
  buf := rfl
  tableBuilt hvalid := absurd hvalid Bool.false_ne_true

end

/-! ### The invariant after a command -/

section
variable {s : State}

/-- R264: a raise needs nothing of the phase it comes from. -/
theorem StateInv.of_raiseErr (h : CommonInv s) (k : ErrKind) (n sub e f : Nat) :
    StateInv (raiseErr k n sub e f s) := by
  refine .of_parts (h.of_eq rfl rfl rfl rfl rfl) ?_
  change ErrInv _
  refine ⟨⟨rfl, rfl, rfl, rfl, rfl, rfl, rfl, rfl, rfl, rfl, rfl⟩, k, rfl, fun hk => ?_⟩
  simp [hk]

/-- R50: what reset leaves. -/
theorem StateInv.of_resetCore (h : CommonInv s) : StateInv (resetCore s) :=
  .of_parts h.resetCore rfl

/-- The result registers, the mode latch and the table after the acceptance of a `RUN` command. -/
theorem latchRun_acceptClear_res (report filt gran : Bool) (chsel : Half) :
    (latchRun report filt gran chsel (acceptClear s)).res =
      { Results.cleared s.params.nacc with modeTag := modeTagOf report filt gran } := by
  simp [latchRun]

/-- R224, R225: an accepted `RUN` command is in the header, or waits for the table. -/
theorem StateInv.of_run (h : CommonInv s) (report filt gran : Bool) (chsel : Half) :
    StateInv (startRun (latchRun report filt gran chsel (acceptClear s))) := by
  have hpending : ResultsPending (startRun (latchRun report filt gran chsel (acceptClear s))) := by
    simp [ResultsPending, latchRun]
  have htag : (startRun (latchRun report filt gran chsel (acceptClear s))).res.modeTag =
      latchedTag (startRun (latchRun report filt gran chsel (acceptClear s))) := by
    simp [latchedTag, latchRun]
  apply StateInv.of_parts (h.acceptClear.latchRun report filt gran chsel).startRun
  cases hvalid : s.tvalid with
  | true =>
    have hphase : (startRun (latchRun report filt gran chsel (acceptClear s))).phase = .header := by
      simp [latchRun, hvalid]
    have hstep : (startRun (latchRun report filt gran chsel (acceptClear s))).step = 1 := by
      simp [latchRun, hvalid]
    refine .of_header hphase ⟨by simp [latchRun, hvalid], by rw [hstep]; decide, fun hseven => ?_, hpending, htag⟩
    rw [hstep] at hseven
    exact absurd hseven (by decide)
  | false =>
    have hphase : (startRun (latchRun report filt gran chsel (acceptClear s))).phase = .tbuild := by
      simp [latchRun, hvalid]
    have hrun : (startRun (latchRun report filt gran chsel (acceptClear s))).runPending = true := by
      simp [latchRun, hvalid]
    rw [PhaseInv, hphase]
    refine ⟨by simp [latchRun, hvalid], hpending, ?_⟩
    rw [htag, hrun, if_pos rfl]

/-- R223, R225: after the build a waiting `RUN` command is in the header, a `TBUILD` command in `IDLE`. -/
theorem StateInv.of_build (h : StateInv s) (hphase : s.phase = .tbuild) (hvalid : s.tvalid = false) :
    StateInv (tbuildLoop s) := by
  have hbuild := h.buildInv hphase
  have hpending : ResultsPending (tbuildLoop s) := by
    simpa [ResultsPending] using hbuild.results
  have htag := hbuild.tag
  apply StateInv.of_parts (h.common.tbuildLoop hvalid)
  cases hrun : s.runPending with
  | true =>
    have hnext : (tbuildLoop s).phase = .header := by simp [hvalid, hrun]
    have hstep : (tbuildLoop s).step = 1 := by simp [hvalid, hrun]
    refine .of_header hnext ⟨tbuildLoop_tvalid s, by rw [hstep]; decide, fun hseven => ?_, hpending, ?_⟩
    · rw [hstep] at hseven
      exact absurd hseven (by decide)
    · rw [hrun, if_pos rfl] at htag
      simpa [latchedTag] using htag
  | false =>
    have hnext : (tbuildLoop s).phase = .idle := by simp [hvalid, hrun]
    rw [PhaseInv, hnext]
    change (tbuildLoop s).res = Results.cleared (tbuildLoop s).params.nacc
    rw [hrun, if_neg Bool.false_ne_true] at htag
    have hres : s.res = { Results.cleared s.params.nacc with modeTag := s.res.modeTag } := hbuild.results
    rw [tbuildLoop_res, tbuildLoop_params, hres, htag]
    rfl

end

/-! ### The invariant after a header step -/

section
variable {s t : State}

/-- The validity of a format is a matter of six registers. -/
theorem FormatOk.of_eq (h : FormatOk s) (hfmt : t.fmt = s.fmt) (hbps : t.bps = s.bps)
    (hbufsz : t.bufsz = s.bufsz) (hparams : t.params = s.params) (hmode : t.mode = s.mode) : FormatOk t where
  descriptor := by rw [hfmt]; exact h.descriptor
  bps := by rw [hbps, hfmt]; exact h.bps
  bufsz := by rw [hbufsz, hparams, hfmt]; exact h.bufsz
  channels := by
    have hc := h.channels
    unfold missingChannels at hc ⊢
    rwa [hmode, hparams, hfmt]

/-- R155: the check of step 6 leaves step 6 over a valid format only. -/
theorem formatOk_deriveGeometry (hcheck : descriptorCheck s.fmt = none) (hchannels : missingChannels s = []) :
    FormatOk (deriveGeometry s) :=
  ⟨hcheck, rfl, rfl, hchannels⟩

/-- R147, R148, R155: the check of step 6 raises, or goes on to step 7 with a valid format. -/
theorem StateInv.of_checkFormat (h : CommonInv s) (hphase : s.phase = .header) (htable : s.tvalid = true)
    (hresults : ResultsPending s) (htag : s.res.modeTag = latchedTag s) : StateInv (checkFormat s) := by
  rcases checkFormat_cases s with ⟨k, sub, e, f, -, heq⟩ | ⟨c, cs, -, -, heq⟩ | ⟨hcheck, hchannels, heq⟩ <;>
    rw [heq]
  · exact .of_raiseErr h _ _ _ _ _
  · exact .of_raiseErr h _ _ _ _ _
  · have hstep : (deriveGeometry s).step = 7 := rfl
    refine .of_parts (h.of_eq rfl rfl rfl rfl rfl) (.of_header hphase ?_)
    exact ⟨htable, by rw [hstep]; decide, fun _ => formatOk_deriveGeometry hcheck hchannels, hresults, htag⟩

/-- R140: a header step keeps the invariant. -/
theorem StateInv.of_headerMove (h : StateInv s) (hphase : s.phase = .header) (hmove : HeaderMove s t) :
    StateInv t := by
  have hinv := h.headerInv hphase
  cases hmove with
  | wait => exact h
  | raised hread _ e f => exact .of_raiseErr (h.common.streamRead hread) _ _ _ _ _
  | unaligned _ hread =>
    refine .of_raiseErr ?_ _ _ _ _ _
    exact (h.common.streamRead hread).of_eq rfl rfl rfl rfl rfl
  | advance hread hnext hsix hlt =>
    obtain ⟨pos, eosf, bytes, rfl⟩ := streamRead_exists hread
    refine .of_parts (h.common.of_eq rfl rfl rfl rfl rfl) (.of_header hphase ?_)
    refine ⟨hinv.table, by simp only [hnext]; omega, fun hseven => ?_, hinv.results, hinv.tag⟩
    have hformat : FormatOk s := hinv.format (by simp only [hnext] at hseven; omega)
    exact hformat.of_eq rfl rfl rfl rfl rfl
  | format _ hread =>
    obtain ⟨pos, eosf, bytes, rfl⟩ := streamRead_exists hread
    refine .of_checkFormat ?_ hphase hinv.table hinv.results hinv.tag
    exact h.common.of_eq rfl rfl rfl rfl rfl
  | enterData hstep hread haligned =>
    have hformat : FormatOk s := hinv.format (by rw [hstep]; decide)
    obtain ⟨pos, eosf, bytes, rfl⟩ := streamRead_exists hread
    refine .of_parts (h.common.of_eq rfl rfl rfl rfl rfl) (.of_data rfl ?_)
    exact ⟨hinv.table, rfl, hformat.of_eq rfl rfl rfl rfl rfl, haligned,
      fun hprimed => absurd hprimed Bool.false_ne_true, hinv.results, hinv.tag⟩

/-! ### The invariant after a step of the data phase -/

theorem CommonInv.dataStart (h : CommonInv s) : CommonInv (dataStart s) :=
  ⟨h.params, List.length_replicate, h.tableSize, h.buf, h.tableBuilt⟩

/-- R172: the loop starts with nothing read. -/
theorem StateInv.of_dataStart (h : StateInv s) (hphase : s.phase = .data) : StateInv (dataStart s) := by
  have hinv := h.dataInv hphase
  refine .of_parts h.common.dataStart (.of_data hphase ?_)
  exact ⟨hinv.table, hinv.step, hinv.format.of_eq rfl rfl rfl rfl rfl, hinv.aligned,
    fun _ _ => ⟨hinv.aligned, Nat.zero_add _⟩, hinv.results, hinv.tag⟩

/-- R230: the commit of a pass without a report. -/
theorem StateInv.of_commitPlain (h : StateInv s) (hphase : s.phase = .data) : StateInv (commitPlain s) := by
  have hinv := h.dataInv hphase
  obtain ⟨-, -, hextras⟩ := hinv.results.noResult
  refine .of_parts (h.common.of_eq rfl rfl rfl rfl rfl) ?_
  change DoneInv _
  exact ⟨rfl, rfl, ⟨rfl, rfl, rfl, rfl⟩, fun _ => ⟨hextras.1, hextras.2, hextras.3, hextras.4, hextras.5,
    hextras.6, hextras.7, hextras.8, hextras.9⟩, hinv.tag⟩

/-- R230, R232: the commit of a report pass. -/
theorem StateInv.of_commitReport (h : StateInv s) (hphase : s.phase = .data) (hreport : s.mode.report = true) :
    StateInv (reportExtras (commitPlain s)) := by
  have hinv := h.dataInv hphase
  obtain ⟨ts, d, heq⟩ := reportExtras_exists (commitPlain s)
  rw [heq]
  refine .of_parts (h.common.of_eq rfl rfl rfl rfl rfl) ?_
  change DoneInv _
  exact ⟨rfl, rfl, ⟨rfl, rfl, rfl, rfl⟩, fun hplain => absurd (hreport.symm.trans hplain) (by decide), hinv.tag⟩

/-- Two multiples of `BA` have a multiple of `BA` as their minimum: a known-size request is one of whole blocks. -/
theorem knownRequest_aligned (hp : s.params.Wf) (hf : FormatOk s) (hrem : s.cnt.rem.toNat % s.fmt.ba.toNat = 0) :
    knownRequest s % s.fmt.ba.toNat = 0 := by
  obtain ⟨-, -, hsize⟩ := hf.geometry hp
  rcases Nat.le_total s.bufsz.toNat s.cnt.rem.toNat with hle | hle
  · rw [knownRequest, Nat.min_eq_left hle, hsize, Nat.mul_mod_left]
  · rw [knownRequest, Nat.min_eq_right hle, hrem]

/-- R173, R176: what an iteration takes off `REM` it adds to `TOT`. -/
theorem rem_tot_after {rem dsize : Word} {tot : Dword} {q : Nat} (hq : q ≤ rem.toNat)
    (hsum : tot.toNat + rem.toNat = dsize.toNat) :
    (rem - BitVec.ofNat 32 q).toNat = rem.toNat - q ∧
      (tot + BitVec.ofNat 64 q).toNat + (rem - BitVec.ofNat 32 q).toNat = dsize.toNat := by
  have hrem := rem.isLt
  have hdsize := dsize.isLt
  have hleft : (rem - BitVec.ofNat 32 q).toNat = rem.toNat - q := by
    rw [BitVec.toNat_sub, BitVec.toNat_ofNat, Nat.mod_eq_of_lt (by omega : q < 2 ^ 32)]
    omega
  refine ⟨hleft, ?_⟩
  rw [hleft, BitVec.toNat_add, BitVec.toNat_ofNat]
  omega

/-- R173: an iteration with a known size. -/
theorem StateInv.of_known (h : StateInv s) (hphase : s.phase = .data) (hprimed : s.primed = true)
    (hsize : s.cnt.dsize.toNat ≠ 0) {r : List Byte} {s' u : State}
    (hread : streamRead (knownRequest s) s = some (r, s')) (hlen : r.length = knownRequest s)
    (htake : takeBuffer r (noteRead (knownRequest s) r.length s') = .next u) :
    StateInv (spendRem r.length u) := by
  have hinv := h.dataInv hphase
  obtain ⟨hrem, hsum⟩ := hinv.rem hprimed hsize
  have hcommon : CommonInv (spendRem r.length u) := by
    refine CommonInv.of_eq (s := u) (.takeBuffer ?_ htake) rfl rfl rfl rfl rfl
    exact (h.common.streamRead hread).of_eq rfl rfl rfl rfl rfl
  obtain ⟨pos, eosf, bytes, rfl⟩ := streamRead_exists hread
  obtain ⟨hu, -⟩ := takeBuffer_frame htake
  rw [hu] at hcommon ⊢
  have hle : r.length ≤ s.cnt.rem.toNat := hlen ▸ Nat.min_le_right _ _
  have haligned : r.length % s.fmt.ba.toNat = 0 := hlen ▸ knownRequest_aligned h.params hinv.format hrem
  obtain ⟨hleft, hsum'⟩ := rem_tot_after hle hsum
  refine .of_parts hcommon (.of_data hphase ?_)
  refine ⟨hinv.table, hinv.step, hinv.format.of_eq rfl rfl rfl rfl rfl, hinv.aligned,
    fun _ _ => ⟨?_, hsum'⟩, hinv.results, hinv.tag⟩
  change (s.cnt.rem - BitVec.ofNat 32 r.length).toNat % s.fmt.ba.toNat = 0
  rw [hleft]
  exact Nat.mod_eq_zero_of_dvd
    (Nat.dvd_sub (Nat.dvd_of_mod_eq_zero hrem) (Nat.dvd_of_mod_eq_zero haligned))

/-- R174: an iteration with an unknown size. -/
theorem StateInv.of_unknown (h : StateInv s) (hphase : s.phase = .data) (hsize : s.cnt.dsize.toNat = 0)
    {r : List Byte} {s' u : State} (hread : streamRead s.bufsz.toNat s = some (r, s')) {c : Counters}
    (hc : c.dsize = s.cnt.dsize) (htake : takeBuffer r { s' with cnt := c } = .next u) : StateInv u := by
  have hinv := h.dataInv hphase
  have hcommon : CommonInv u := by
    refine .takeBuffer ?_ htake
    exact (h.common.streamRead hread).of_eq rfl rfl rfl rfl rfl
  obtain ⟨pos, eosf, bytes, rfl⟩ := streamRead_exists hread
  obtain ⟨hu, -⟩ := takeBuffer_frame htake
  rw [hu] at hcommon ⊢
  refine .of_parts hcommon (.of_data hphase ?_)
  refine ⟨hinv.table, hinv.step, hinv.format.of_eq rfl rfl rfl rfl rfl, ?_, fun _ hnonzero => ?_,
    hinv.results, hinv.tag⟩
  · change c.dsize.toNat % s.fmt.ba.toNat = 0
    rw [hc, hsize, Nat.zero_mod]
  · exact absurd (hc ▸ hsize) hnonzero

/-- R172 to R175: a step of the data phase keeps the invariant. -/
theorem StateInv.of_dataMove (h : StateInv s) (hphase : s.phase = .data) (hmove : DataMove s t) : StateInv t := by
  cases hmove with
  | start => exact h.of_dataStart hphase
  | wait => exact h
  | commit => exact h.of_commitPlain hphase
  | commitReport hreport => exact h.of_commitReport hphase hreport
  | raised hread _ _ c e f =>
    refine .of_raiseErr ?_ _ _ _ _ _
    exact (h.common.streamRead hread).of_eq rfl rfl rfl rfl rfl
  | known hprimed hsize hread _ hlen htake => exact h.of_known hphase hprimed hsize hread hlen htake
  | unknown _ hsize hread _ hc htake => exact h.of_unknown hphase hsize hread hc htake

/-! ### The invariant along every run -/

/-- A `TBUILD` command over a valid table ends in `IDLE`, its result registers clear (R223). -/
theorem StateInv.of_tbuild (h : CommonInv s) : StateInv { acceptClear s with phase := .idle } :=
  .of_parts (h.of_eq rfl rfl rfl rfl rfl) rfl

/-- A `TBUILD` command before the build waits for it, its result registers clear (R223). -/
theorem StateInv.of_tbuildWaits (h : CommonInv s) (hvalid : s.tvalid = false) :
    StateInv { acceptClear s with phase := .tbuild, runPending := false } := by
  refine .of_parts (h.of_eq rfl rfl rfl rfl rfl) ?_
  change BuildInv _
  exact ⟨hvalid, rfl, rfl⟩

theorem StateInv.of_move (h : StateInv s) (hmove : Move s t) : StateInv t := by
  cases hmove with
  | reset => exact .of_resetCore h.common
  | idle => exact h
  | illegal _ w => exact .of_raiseErr h.common.acceptClear _ _ _ _ _
  | tbuild => exact .of_tbuild h.common
  | tbuildWaits _ hvalid => exact .of_tbuildWaits h.common hvalid
  | refuse _ report filt gran chsel c =>
    exact .of_raiseErr (h.common.acceptClear.latchRun report filt gran chsel) _ _ _ _ _
  | run _ report filt gran chsel => exact .of_run h.common report filt gran chsel
  | build hphase hvalid => exact h.of_build hphase hvalid
  | buildDone hphase hvalid => exact absurd ((h.buildInv hphase).table) (by simp [hvalid])
  | header hphase _ hmove => exact h.of_headerMove hphase hmove
  | data hphase _ hmove => exact h.of_dataMove hphase hmove

end

/-- Settles O53: reset leaves `IDLE`, cleared registers, an empty `BUF` and no table. -/
theorem resetMeetsTheInvariant : Obligations.ResetMeetsTheInvariant :=
  .of_parts ⟨by decide, List.length_replicate, List.length_replicate, rfl,
    fun hvalid => absurd hvalid Bool.false_ne_true⟩ rfl

/-- Settles O54: each way a step can end keeps the invariant. -/
theorem everyStepKeepsTheInvariant : Obligations.EveryStepKeepsTheInvariant :=
  fun _ _ h hstep => h.of_move (step_move hstep)

end Sys2Proof.Machine

/-! The read loop over a format in order (R171 to R174): what one iteration does with the bytes it obtained; and so
every state with the invariant has a next one. -/

namespace Sys2Proof.Machine

section
variable {s s' : State} {r : List Byte}

/-! ### Taking a buffer -/

/-- The state after a buffer is stored and accumulated: `BUF`, the accumulators and `TOT` (R173, R174). -/
def bufferTaken (r : List Byte) (s : State) : State :=
  { s with
    buf := Memory.load s.buf r
    acc := accAfter s (byteAt r) r.length
    cnt := { s.cnt with tot := s.cnt.tot + BitVec.ofNat 64 r.length } }

/-- Over a format in order, a buffer no longer than `BUFSZ` whose length `GOT` holds is taken. -/
theorem takeBuffer_of_got (h0 : s.fmt.ba.toNat ≠ 0) (hba : s.fmt.ba.toNat = s.bps.toNat * s.fmt.nch.toNat)
    (hgot : s.cnt.got = BitVec.ofNat 32 r.length) (hr : r.length ≤ s.bufsz.toNat) :
    takeBuffer r s = .next (bufferTaken r s) := by
  have hlt := s.bufsz.isLt
  have hlen : s.cnt.got.toNat = r.length := by
    rw [hgot, BitVec.toNat_ofNat, Nat.mod_eq_of_lt (by omega)]
  exact takeBuffer_eq h0 hba (by omega) hlen

/-- The request never exceeds the buffer. -/
theorem knownRequest_le_bufsz (s : State) : knownRequest s ≤ s.bufsz.toNat := Nat.min_le_left _ _

/-- R173: a full read of the known-size form. -/
theorem execRdbufKnown_full (h0 : s.fmt.ba.toNat ≠ 0) (hba : s.fmt.ba.toNat = s.bps.toNat * s.fmt.nch.toNat)
    (hread : streamRead (knownRequest s) s = some (r, s')) (hlen : r.length = knownRequest s) :
    execRdbufKnown s =
      .next (spendRem r.length (bufferTaken r (noteRead (knownRequest s) r.length s'))) := by
  have hle : r.length ≤ s.bufsz.toNat := hlen ▸ knownRequest_le_bufsz s
  have htake : takeBuffer r (noteRead (knownRequest s) r.length s') =
      .next (bufferTaken r (noteRead (knownRequest s) r.length s')) := by
    obtain ⟨pos, eosf, bytes, rfl⟩ := streamRead_exists hread
    exact takeBuffer_of_got (s := noteRead _ _ _) h0 hba rfl hle
  have hnot : ¬ r.length < knownRequest s := by omega
  unfold execRdbufKnown
  simp only [hread, hnot, if_false, htake]

/-- R173: a short read of the known-size form. -/
theorem execRdbufKnown_short (hread : streamRead (knownRequest s) s = some (r, s'))
    (hlen : r.length < knownRequest s) :
    execRdbufKnown s = .next (raiseErr .corruptedFile 9 0 (knownRequest s) r.length
      (noteRead (knownRequest s) r.length s')) := by
  unfold execRdbufKnown
  simp only [hread, hlen, if_true]

/-- R174: a full read of the unknown-size form. -/
theorem execRdbufUnknown_full (h0 : s.fmt.ba.toNat ≠ 0) (hba : s.fmt.ba.toNat = s.bps.toNat * s.fmt.nch.toNat)
    (hread : streamRead s.bufsz.toNat s = some (r, s')) (hlen : r.length = s.bufsz.toNat) :
    execRdbufUnknown s = .next (bufferTaken r (noteRead s.bufsz.toNat r.length s')) := by
  obtain ⟨pos, eosf, bytes, rfl⟩ := streamRead_exists hread
  unfold execRdbufUnknown
  have hnot : ¬ r.length < s.bufsz.toNat := by omega
  simp only [hread, hnot, if_false]
  exact takeBuffer_of_got (s := noteRead _ _ _) h0 hba rfl (Nat.le_of_eq hlen)

/-- R174: a short read of the unknown-size form, of whole blocks: the last one. -/
theorem execRdbufUnknown_last (h0 : s.fmt.ba.toNat ≠ 0) (hba : s.fmt.ba.toNat = s.bps.toNat * s.fmt.nch.toNat)
    (hread : streamRead s.bufsz.toNat s = some (r, s')) (hlen : r.length < s.bufsz.toNat)
    (hblocks : r.length % s.fmt.ba.toNat = 0) :
    execRdbufUnknown s = .next (bufferTaken r (noteLast (noteRead s.bufsz.toNat r.length s'))) := by
  obtain ⟨pos, eosf, bytes, rfl⟩ := streamRead_exists hread
  unfold execRdbufUnknown
  simp only [hread, hlen, if_true, h0, hblocks, if_false, ne_eq, not_true_eq_false]
  exact takeBuffer_of_got (s := noteLast _) h0 hba rfl (Nat.le_of_lt hlen)

/-- R174: a short read of the unknown-size form that ends inside a block. -/
theorem execRdbufUnknown_ragged (h0 : s.fmt.ba.toNat ≠ 0)
    (hread : streamRead s.bufsz.toNat s = some (r, s')) (hlen : r.length < s.bufsz.toNat)
    (hblocks : r.length % s.fmt.ba.toNat ≠ 0) :
    execRdbufUnknown s = .next (raiseErr .dataNotAligned 9 0 s.fmt.ba.toNat r.length
      (noteLast (noteRead s.bufsz.toNat r.length s'))) := by
  unfold execRdbufUnknown
  simp only [hread, hlen, if_true, h0, if_false, ne_eq, hblocks, not_false_eq_true]

/-- R63: an iteration whose read blocks waits. -/
theorem execRdbufKnown_blocked (hread : streamRead (knownRequest s) s = none) : execRdbufKnown s = .next s := by
  unfold execRdbufKnown
  simp only [hread]

theorem execRdbufUnknown_blocked (hread : streamRead s.bufsz.toNat s = none) : execRdbufUnknown s = .next s := by
  unfold execRdbufUnknown
  simp only [hread]

/-! ### Every operation that the sequencer selects answers -/

/-- Over a format in order, an iteration with a known size answers. -/
theorem execRdbufKnown_total (h0 : s.fmt.ba.toNat ≠ 0) (hba : s.fmt.ba.toNat = s.bps.toNat * s.fmt.nch.toNat) :
    ∃ t, execRdbufKnown s = .next t := by
  cases hread : streamRead (knownRequest s) s with
  | none => exact ⟨_, execRdbufKnown_blocked hread⟩
  | some p =>
    obtain ⟨r, s'⟩ := p
    rcases Nat.lt_or_eq_of_le (streamRead_length hread) with hlt | heq
    · exact ⟨_, execRdbufKnown_short hread hlt⟩
    · exact ⟨_, execRdbufKnown_full h0 hba hread heq⟩

/-- Over a format in order, an iteration with an unknown size answers. -/
theorem execRdbufUnknown_total (h0 : s.fmt.ba.toNat ≠ 0)
    (hba : s.fmt.ba.toNat = s.bps.toNat * s.fmt.nch.toNat) : ∃ t, execRdbufUnknown s = .next t := by
  cases hread : streamRead s.bufsz.toNat s with
  | none => exact ⟨_, execRdbufUnknown_blocked hread⟩
  | some p =>
    obtain ⟨r, s'⟩ := p
    rcases Nat.lt_or_eq_of_le (streamRead_length hread) with hlt | heq
    · by_cases hblocks : r.length % s.fmt.ba.toNat = 0
      · exact ⟨_, execRdbufUnknown_last h0 hba hread hlt hblocks⟩
      · exact ⟨_, execRdbufUnknown_ragged h0 hread hlt hblocks⟩
    · exact ⟨_, execRdbufUnknown_full h0 hba hread heq⟩

theorem execCommit_total (s : State) : ∃ t, execCommit s = .next t := by
  unfold execCommit
  split <;> exact ⟨_, rfl⟩

/-- The check of step 8 answers where `BA` is not 0. -/
theorem checkDataSize_total (h0 : s.fmt.ba.toNat ≠ 0) : ∃ t, checkDataSize s = .next t := by
  unfold checkDataSize
  simp only [h0, if_false]
  split
  · exact ⟨_, rfl⟩
  · split <;> exact ⟨_, rfl⟩

/-- A header step answers; step 8 where `BA` is not 0. -/
theorem exec_header_total {i : Instr} (hsel : selectHeader s = .perform i)
    (h0 : s.step.val = 8 → s.fmt.ba.toNat ≠ 0) : ∃ t, exec i s = .next t := by
  have hmem := selectHeader_perform hsel
  simp only [List.mem_cons, Prod.mk.injEq, List.mem_nil_iff, or_false] at hmem
  rcases hmem with ⟨hs, rfl⟩ | ⟨hs, rfl⟩ | ⟨hs, rfl⟩ | ⟨hs, rfl⟩ | ⟨hs, rfl⟩ | ⟨hs, rfl⟩ | ⟨hs, rfl⟩ | ⟨hs, rfl⟩
  · exact constStep_total _ _ _ _ _
  · exact readHdr_total fun _ _ _ _ => ⟨_, rfl⟩
  · exact constStep_total _ _ _ _ _
  · exact constStep_total _ _ _ _ _
  · exact constStep_total _ _ _ _ _
  · exact readHdr_total fun _ _ _ _ => ⟨_, rfl⟩
  · exact constStep_total _ _ _ _ _
  · refine readHdr_total fun r s' hread _ => checkDataSize_total ?_
    obtain ⟨pos, eosf, bytes, rfl⟩ := streamRead_exists hread
    exact h0 (by rw [hs]; rfl)

theorem acceptRun_total (report filt gran : Bool) (chsel : Half) (s : State) :
    ∃ t, acceptRun report filt gran chsel s = .next t := by
  unfold acceptRun
  split <;> exact ⟨_, rfl⟩

theorem execTbuild_total (s : State) : ∃ t, execTbuild s = .next t := by
  unfold execTbuild
  split
  · split <;> exact ⟨_, rfl⟩
  · exact ⟨_, rfl⟩

/-! ### Every step answers -/

/-- What a step does, by what the sequencer selects. -/
theorem step_of_perform {i : Instr} (hrst : s.ports.rst = false) (hsel : select s = .perform i) :
    step s = exec i s := by
  simp [step, hrst, hsel]

theorem step_of_wait (hrst : s.ports.rst = false) (hsel : select s = .wait) : step s = .next s := by
  simp [step, hrst, hsel]

theorem step_of_illegal {w : Word} (hrst : s.ports.rst = false) (hsel : select s = .illegal w) :
    step s = .next (acceptIllegal w s) := by
  simp [step, hrst, hsel]

theorem step_of_dataStart (hrst : s.ports.rst = false) (hsel : select s = .dataStart) :
    step s = .next (dataStart s) := by
  simp [step, hrst, hsel]

theorem step_of_buildDone (hrst : s.ports.rst = false) (hsel : select s = .buildDone) :
    step s = .next (afterBuild s) := by
  simp [step, hrst, hsel]

theorem step_of_reset (hrst : s.ports.rst = true) : step s = .next (resetCore s) := by
  simp [step, hrst]

theorem select_of_header (hphase : s.phase = .header) : select s = selectHeader s := by simp [select, hphase]

theorem select_of_data (hphase : s.phase = .data) : select s = selectData s := by simp [select, hphase]

theorem select_of_tbuild (hphase : s.phase = .tbuild) :
    select s = if s.tvalid then .buildDone else .perform .tbuildLoop := by simp [select, hphase]

/-- R24: each of the step numbers 1 to 8 selects an operation. -/
theorem selectHeader_of_step (h1 : 1 ≤ s.step.val) (h8 : s.step.val ≤ 8) :
    ∃ i, selectHeader s = .perform i := by
  unfold selectHeader
  generalize s.step = n at h1 h8
  fin_cases n <;> simp_all [decodeStep]

/-- Where a command is accepted, every word is answered. -/
theorem step_total_of_ready (hrst : s.ports.rst = false) (hready : s.phase.ready = true) :
    ∃ t, step s = .next t := by
  have hsel := select_of_ready hready
  rcases selectCommand_cases s with hc | ⟨w, hc⟩ | hc | ⟨report, filt, gran, chsel, hc⟩ <;> rw [hc] at hsel
  · exact ⟨_, step_of_wait hrst hsel⟩
  · exact ⟨_, step_of_illegal hrst hsel⟩
  · rw [step_of_perform hrst hsel]
    exact execTbuild_total s
  · rw [step_of_perform hrst hsel, exec_decodeRun]
    exact acceptRun_total report filt gran chsel s

/-- In the data phase over a format in order every step answers. -/
theorem step_total_of_data (hrst : s.ports.rst = false) (hphase : s.phase = .data) (hnine : s.step = 9)
    (h0 : s.fmt.ba.toNat ≠ 0) (hba : s.fmt.ba.toNat = s.bps.toNat * s.fmt.nch.toNat) :
    ∃ t, step s = .next t := by
  have hsel := select_of_data hphase
  rcases selectData_cases s with ⟨hlost, -⟩ | ⟨-, -, hd⟩ | ⟨-, -, -, hd⟩ | ⟨-, -, -, -, hd⟩ | ⟨-, -, -, -, hd⟩
  · exact absurd hnine hlost
  · exact ⟨_, step_of_dataStart hrst (hsel.trans hd)⟩
  · rw [step_of_perform hrst (hsel.trans hd)]
    exact execCommit_total s
  · rw [step_of_perform hrst (hsel.trans hd)]
    exact execRdbufUnknown_total h0 hba
  · rw [step_of_perform hrst (hsel.trans hd)]
    exact execRdbufKnown_total h0 hba

/-- A state with the invariant has a next one. -/
theorem StateInv.step_total (h : StateInv s) : ∃ t, step s = .next t := by
  cases hrst : s.ports.rst with
  | true => exact ⟨_, step_of_reset hrst⟩
  | false =>
    cases hphase : s.phase with
    | idle | done | err => exact step_total_of_ready hrst (by rw [hphase]; rfl)
    | tbuild =>
      have hsel := select_of_tbuild hphase
      rw [(h.buildInv hphase).table, if_neg Bool.false_ne_true] at hsel
      exact ⟨_, step_of_perform hrst hsel⟩
    | header =>
      have hinv := h.headerInv hphase
      obtain ⟨i, hi⟩ := selectHeader_of_step hinv.step.1 hinv.step.2
      rw [step_of_perform hrst ((select_of_header hphase).trans hi)]
      refine exec_header_total hi fun h8 => ?_
      exact ((hinv.format (by omega)).geometry h.params).1
    | data =>
      obtain ⟨h0, hba, -⟩ := (h.dataFormat hphase).geometry h.params
      exact step_total_of_data hrst hphase (h.dataStep hphase) h0 hba

end

/-- Settles O55, by induction on the number of steps: the next state has the invariant again. -/
theorem invariantStatesNeverStop : Obligations.InvariantStatesNeverStop := by
  intro n
  induction n with
  | zero => exact fun _ _ => trivial
  | succ n ih =>
    intro s h
    obtain ⟨t, ht⟩ := h.step_total
    exact ⟨t, ht, ih t (everyStepKeepsTheInvariant s t h ht)⟩

end Sys2Proof.Machine

/-! What every step keeps (R21, R32, R62, R282): the phase moves along its table, a valid table stays, a busy pass
keeps its mode and writes no result, and the stream is consumed in order. -/

namespace Sys2Proof.Machine

section
variable {s t : State}

/-! ### The phase -/

/-- A check of step 6 leaves the header for `ERR` alone; else step 7 is next. -/
theorem checkFormat_phase_step (s : State) :
    (checkFormat s).phase = .err ∨ (checkFormat s).phase = s.phase ∧ (checkFormat s).step = 7 := by
  rcases checkFormat_cases s with ⟨k, sub, e, f, -, heq⟩ | ⟨c, cs, -, -, heq⟩ | ⟨-, -, heq⟩ <;> rw [heq]
  · exact .inl rfl
  · exact .inl rfl
  · exact .inr ⟨rfl, rfl⟩

/-- R140: a header step waits, ends in `ERR`, goes one step on, or goes from step 8 to the data phase. -/
theorem HeaderMove.phase_step (hphase : s.phase = .header) (h : HeaderMove s t) :
    t = s ∨ t.phase = .err ∨ t.phase = .header ∧ t.step.val = s.step.val + 1 ∧ s.step.val < 8 ∨
      t.phase = .data ∧ s.step = 8 ∧ t.step = 9 := by
  cases h with
  | wait => exact .inl rfl
  | raised | unaligned => exact .inr (.inl rfl)
  | advance hread hnext hsix hlt =>
    obtain ⟨pos, eosf, bytes, rfl⟩ := streamRead_exists hread
    exact .inr (.inr (.inl ⟨hphase, hnext, hlt⟩))
  | @format hstep r s' hread =>
    obtain ⟨pos, eosf, bytes, rfl⟩ := streamRead_exists hread
    rcases checkFormat_phase_step { s with
      pos := pos, eosf := eosf, ports := { s.ports with inBytes := bytes }, fmt := descriptorOf r } with
      herr | ⟨hstay, hseven⟩
    · exact .inr (.inl herr)
    · refine .inr (.inr (.inl ⟨hstay.trans hphase, ?_⟩))
      rw [hseven, hstep]
      decide
  | enterData hstep => exact .inr (.inr (.inr ⟨rfl, hstep, rfl⟩))

/-- R172 to R175: a step of the data phase stays in it, or ends the pass. -/
theorem DataMove.phase (hphase : s.phase = .data) (h : DataMove s t) :
    t.phase = .data ∨ t.phase = .done ∨ t.phase = .err := by
  cases h with
  | start | wait => exact .inl hphase
  | commit => exact .inr (.inl rfl)
  | commitReport =>
    obtain ⟨ts, d, heq⟩ := reportExtras_exists (commitPlain s)
    rw [heq]
    exact .inr (.inl rfl)
  | raised => exact .inr (.inr rfl)
  | known _ _ hread _ _ htake | unknown _ _ hread _ _ htake =>
    obtain ⟨pos, eosf, bytes, rfl⟩ := streamRead_exists hread
    rw [(takeBuffer_frame htake).1]
    exact .inl hphase

/-- Where a command is accepted, the phase goes to any phase but `DATA` and `DONE`, or stays. -/
theorem phaseMove_of_ready {p q : Phase} (hready : p.ready = true) (hq : q = p ∨ q ≠ .data ∧ q ≠ .done) :
    phaseMove p q = true := by
  cases p <;> cases q <;> simp_all [Phase.ready, phaseMove]

/-- The state in which a `RUN` command leaves the core, as far as its phase goes. -/
theorem startRun_phase_mem (s : State) : (startRun s).phase = .header ∨ (startRun s).phase = .tbuild := by
  rw [startRun_phase]
  cases s.tvalid
  · exact .inr rfl
  · exact .inl rfl

/-- R282: every step without a reset moves the phase along the table. -/
theorem Move.phaseMove (hrst : s.ports.rst = false) (h : Move s t) : phaseMove s.phase t.phase = true := by
  cases h with
  | reset hr => exact absurd hr (by simp [hrst])
  | idle hready => exact phaseMove_of_ready hready (.inl rfl)
  | illegal hready | tbuild hready | tbuildWaits hready | refuse hready =>
    exact phaseMove_of_ready hready (.inr (by simp [acceptIllegal]))
  | run hready report filt gran chsel =>
    refine phaseMove_of_ready hready (.inr ?_)
    rcases startRun_phase_mem (latchRun report filt gran chsel (acceptClear s)) with h | h <;> rw [h] <;> decide
  | build hphase hvalid =>
    rw [hphase, tbuildLoop_phase, hvalid]
    cases s.runPending <;> rfl
  | buildDone hphase =>
    rw [hphase, afterBuild_phase]
    cases s.runPending <;> rfl
  | header hphase _ hmove =>
    rw [hphase]
    rcases hmove.phase_step hphase with rfl | h | ⟨h, -⟩ | ⟨h, -⟩
    · rw [hphase]; rfl
    all_goals rw [h]; rfl
  | data hphase _ hmove =>
    rw [hphase]
    rcases hmove.phase hphase with h | h | h <;> rw [h] <;> rfl

/-- A step in `HEADER` is a header step. -/
theorem Move.headerMove (hrst : s.ports.rst = false) (hphase : s.phase = .header) (h : Move s t) :
    HeaderMove s t := by
  cases h with
  | header _ _ hmove => exact hmove
  | reset hr => exact absurd hr (by simp [hrst])
  | idle hr | illegal hr | tbuild hr | tbuildWaits hr | refuse hr | run hr => simp [hphase, Phase.ready] at hr
  | build hp | buildDone hp | data hp => simp [hphase] at hp

/-- Settles O45: the phase by `Move.phaseMove`, the step number by the cases of a header step. -/
theorem phaseMovesAsTheTableSays : Obligations.PhaseMovesAsTheTableSays := by
  intro s t hrst hstep
  have hmove := step_move hstep
  exact ⟨hmove.phaseMove hrst, fun hphase => (hmove.headerMove hrst hphase).phase_step hphase⟩

/-! ### The table -/

theorem checkFormat_table (s : State) : (checkFormat s).table = s.table ∧ (checkFormat s).tvalid = s.tvalid := by
  rcases checkFormat_cases s with ⟨k, sub, e, f, -, heq⟩ | ⟨c, cs, -, -, heq⟩ | ⟨-, -, heq⟩ <;> rw [heq] <;>
    exact ⟨rfl, rfl⟩

/-- No header step writes the table. -/
theorem HeaderMove.table (h : HeaderMove s t) : t.table = s.table ∧ t.tvalid = s.tvalid := by
  cases h with
  | wait => exact ⟨rfl, rfl⟩
  | format _ hread =>
    obtain ⟨pos, eosf, bytes, rfl⟩ := streamRead_exists hread
    exact checkFormat_table _
  | raised hread | advance hread | unaligned _ hread | enterData _ hread =>
    obtain ⟨pos, eosf, bytes, rfl⟩ := streamRead_exists hread
    exact ⟨rfl, rfl⟩

/-- No step of the data phase writes the table. -/
theorem DataMove.table (h : DataMove s t) : t.table = s.table ∧ t.tvalid = s.tvalid := by
  cases h with
  | start | wait | commit => exact ⟨rfl, rfl⟩
  | commitReport =>
    obtain ⟨ts, d, heq⟩ := reportExtras_exists (commitPlain s)
    rw [heq]
    exact ⟨rfl, rfl⟩
  | raised hread =>
    obtain ⟨pos, eosf, bytes, rfl⟩ := streamRead_exists hread
    exact ⟨rfl, rfl⟩
  | known _ _ hread _ _ htake | unknown _ _ hread _ _ htake =>
    obtain ⟨pos, eosf, bytes, rfl⟩ := streamRead_exists hread
    rw [(takeBuffer_frame htake).1]
    exact ⟨rfl, rfl⟩

/-- Settles O46: of the ways a step can end only reset and the build write the table, and the build needs
`TVALID = 0`. -/
theorem validTableIsNeverWritten : Obligations.ValidTableIsNeverWritten := by
  intro s t hrst hvalid hstep
  rw [← hvalid]
  cases step_move hstep with
  | reset hr => exact absurd hr (by simp [hrst])
  | idle | illegal | tbuild | tbuildWaits | buildDone => exact ⟨rfl, rfl⟩
  | refuse _ report filt gran chsel c => simp [latchRun]
  | run _ report filt gran chsel => simp [latchRun]
  | build _ hinvalid => exact absurd hvalid (by simp [hinvalid])
  | header _ _ hmove => exact hmove.table
  | data _ _ hmove => exact hmove.table

/-! ### The mode and the results of a busy pass -/

/-- What a step that is not the end of the pass leaves of the mode and the results. -/
structure KeepsPass (s t : State) : Prop where
  cmd : t.ports.cmd = s.ports.cmd
  mode : t.mode = s.mode
  modeTag : t.res.modeTag = s.res.modeTag
  results : t.phase ≠ .done → t.phase ≠ .err → t.res = s.res

/-- Every raise but that of an illegal word keeps the mode tag. -/
theorem KeepsPass.of_raiseErr {u : State} {k : ErrKind} (hkind : k ≠ .invalidCommand) (n sub e f : Nat)
    (hcmd : u.ports.cmd = s.ports.cmd) (hmode : u.mode = s.mode) (htag : u.res.modeTag = s.res.modeTag) :
    KeepsPass s (raiseErr k n sub e f u) :=
  ⟨hcmd, hmode, by rw [raiseErr_modeTag, if_neg hkind, htag], fun _ herr => absurd rfl herr⟩

/-- The registers of `R147` are checked by a kind of error that is not `InvalidCommand`. -/
theorem descriptorCheck_kind {f : Descriptor} {k : ErrKind} {sub e v : Nat}
    (h : descriptorCheck f = some (k, sub, e, v)) : k ≠ .invalidCommand := by
  rintro rfl
  unfold descriptorCheck at h
  split_ifs at h <;> simp at h

theorem checkFormat_keepsPass (s : State) : KeepsPass s (checkFormat s) := by
  rcases checkFormat_cases s with ⟨k, sub, e, f, hcheck, heq⟩ | ⟨c, cs, -, -, heq⟩ | ⟨-, -, heq⟩ <;> rw [heq]
  · exact .of_raiseErr (descriptorCheck_kind hcheck) _ _ _ _ rfl rfl rfl
  · exact .of_raiseErr (by decide) _ _ _ _ rfl rfl rfl
  · exact ⟨rfl, rfl, rfl, fun _ _ => rfl⟩

theorem HeaderMove.keepsPass (h : HeaderMove s t) : KeepsPass s t := by
  cases h with
  | wait => exact ⟨rfl, rfl, rfl, fun _ _ => rfl⟩
  | format _ hread =>
    obtain ⟨pos, eosf, bytes, rfl⟩ := streamRead_exists hread
    obtain ⟨hcmd, hmode, htag, hres⟩ := checkFormat_keepsPass { s with
      pos := pos, eosf := eosf, ports := { s.ports with inBytes := bytes }, fmt := descriptorOf _ }
    exact ⟨hcmd, hmode, htag, hres⟩
  | raised hread hkind =>
    obtain ⟨pos, eosf, bytes, rfl⟩ := streamRead_exists hread
    exact .of_raiseErr hkind _ _ _ _ rfl rfl rfl
  | unaligned _ hread =>
    obtain ⟨pos, eosf, bytes, rfl⟩ := streamRead_exists hread
    exact .of_raiseErr (by decide) _ _ _ _ rfl rfl rfl
  | advance hread | enterData _ hread =>
    obtain ⟨pos, eosf, bytes, rfl⟩ := streamRead_exists hread
    exact ⟨rfl, rfl, rfl, fun _ _ => rfl⟩

theorem DataMove.keepsPass (h : DataMove s t) : KeepsPass s t := by
  cases h with
  | start | wait => exact ⟨rfl, rfl, rfl, fun _ _ => rfl⟩
  | commit => exact ⟨rfl, rfl, rfl, fun hdone => absurd rfl hdone⟩
  | commitReport =>
    obtain ⟨ts, d, heq⟩ := reportExtras_exists (commitPlain s)
    rw [heq]
    exact ⟨rfl, rfl, rfl, fun hdone => absurd rfl hdone⟩
  | raised hread _ hkind =>
    obtain ⟨pos, eosf, bytes, rfl⟩ := streamRead_exists hread
    exact .of_raiseErr hkind _ _ _ _ rfl rfl rfl
  | known _ _ hread _ _ htake | unknown _ _ hread _ _ htake =>
    obtain ⟨pos, eosf, bytes, rfl⟩ := streamRead_exists hread
    rw [(takeBuffer_frame htake).1]
    exact ⟨rfl, rfl, rfl, fun _ _ => rfl⟩

/-- A busy phase accepts no command (R221, R295). -/
theorem Phase.ready_eq_not_busy (p : Phase) : p.ready = !p.busy := by cases p <;> rfl

theorem not_ready_of_busy (hbusy : s.phase.busy = true) : ¬ s.phase.ready = true := by
  rw [Phase.ready_eq_not_busy, hbusy]
  decide

theorem tbuildLoop_keepsPass (s : State) : KeepsPass s (tbuildLoop s) :=
  ⟨by simp, by simp, by simp, fun _ _ => by simp⟩

/-- Settles O47: in a busy phase a step is the build, a header step or a step of the data phase. -/
theorem busyPassKeepsModeAndResults : Obligations.BusyPassKeepsModeAndResults := by
  intro s t hrst hbusy hstep
  have hnot := not_ready_of_busy hbusy
  have hkeeps : KeepsPass s t := by
    cases step_move hstep with
    | reset hr => exact absurd hr (by simp [hrst])
    | idle hr | illegal hr | tbuild hr | tbuildWaits hr | refuse hr | run hr => exact absurd hr hnot
    | build => exact tbuildLoop_keepsPass s
    | buildDone => exact ⟨rfl, rfl, rfl, fun _ _ => rfl⟩
    | header _ _ hmove => exact hmove.keepsPass
    | data _ _ hmove => exact hmove.keepsPass
  obtain ⟨hcmd, hmode, htag, hresults⟩ := hkeeps
  exact ⟨hcmd, hmode, htag, hresults⟩

/-! ### The stream -/

/-- `t` comes from `s` by taking `k` bytes off the front of the stream, which `in_ready` allows (R62, R236). -/
structure Consumes (k : Nat) (s t : State) : Prop where
  le : k ≤ s.ports.inBytes.length
  bytes : t.ports.inBytes = s.ports.inBytes.drop k
  pos : t.pos = s.pos + k
  ready : 0 < k → s.inReady = true

theorem Consumes.zero (hbytes : t.ports.inBytes = s.ports.inBytes) (hpos : t.pos = s.pos) : Consumes 0 s t :=
  ⟨Nat.zero_le _, hbytes, hpos, fun h => absurd h (Nat.lt_irrefl 0)⟩

/-- The read that the sequencer selects consumes what it obtains (R71, R236). -/
theorem Consumes.of_streamRead {n m : Nat} {s' : State} {r : List Byte} (hrst : s.ports.rst = false)
    (hnext : nextRead s = some m) (hm : 0 < n → 0 < m)
    (hread : streamRead n s = some (r, s')) (hports : t.ports = s'.ports)
    (hpos : t.pos = s'.pos) : Consumes r.length s t := by
  obtain ⟨hle, hcount, hrest, hready⟩ := streamRead_consumes hread
  refine ⟨hle, by rw [hports, hrest], hpos.trans hcount, fun hpositive => ?_⟩
  obtain ⟨hseen, hn⟩ := hready hpositive
  simp [State.inReady, hrst, hseen, hnext, hm hn]

theorem checkFormat_stream (s : State) : (checkFormat s).ports = s.ports ∧ (checkFormat s).pos = s.pos := by
  rcases checkFormat_cases s with ⟨k, sub, e, f, -, heq⟩ | ⟨c, cs, -, -, heq⟩ | ⟨-, -, heq⟩ <;> rw [heq] <;>
    exact ⟨rfl, rfl⟩

/-- Each header step reads at least one byte (R73, R140). -/
theorem nextRead_of_header (hphase : s.phase = .header) (hstep : 1 ≤ s.step.val ∧ s.step.val ≤ 8) :
    ∃ n, nextRead s = some n ∧ 0 < n := by
  obtain ⟨i, hi⟩ := selectHeader_of_step hstep.1 hstep.2
  have hsel : select s = .perform i := (select_of_header hphase).trans hi
  have hmem := selectHeader_perform hi
  simp only [List.mem_cons, Prod.mk.injEq, List.mem_nil_iff, or_false] at hmem
  rcases hmem with ⟨-, rfl⟩ | ⟨-, rfl⟩ | ⟨-, rfl⟩ | ⟨-, rfl⟩ | ⟨-, rfl⟩ | ⟨-, rfl⟩ | ⟨-, rfl⟩ | ⟨-, rfl⟩ <;>
    simp [nextRead, hsel]

theorem HeaderMove.consumes (hrst : s.ports.rst = false) (hphase : s.phase = .header)
    (hstep : 1 ≤ s.step.val ∧ s.step.val ≤ 8) (h : HeaderMove s t) : ∃ k, Consumes k s t := by
  obtain ⟨m, hnext, hm⟩ := nextRead_of_header hphase hstep
  cases h with
  | wait => exact ⟨0, .zero rfl rfl⟩
  | raised hread => exact ⟨_, .of_streamRead hrst hnext (fun _ => hm) hread rfl rfl⟩
  | advance hread => exact ⟨_, .of_streamRead hrst hnext (fun _ => hm) hread rfl rfl⟩
  | unaligned _ hread => exact ⟨_, .of_streamRead hrst hnext (fun _ => hm) hread rfl rfl⟩
  | enterData _ hread => exact ⟨_, .of_streamRead hrst hnext (fun _ => hm) hread rfl rfl⟩
  | format _ hread =>
    obtain ⟨hports, hpos⟩ := checkFormat_stream _
    exact ⟨_, .of_streamRead hrst hnext (fun _ => hm) hread hports hpos⟩

theorem DataMove.consumes (hrst : s.ports.rst = false) (h : DataMove s t) : ∃ k, Consumes k s t := by
  cases h with
  | start | wait | commit => exact ⟨0, .zero rfl rfl⟩
  | commitReport =>
    obtain ⟨ts, d, heq⟩ := reportExtras_exists (commitPlain s)
    rw [heq]
    exact ⟨0, .zero rfl rfl⟩
  | raised hread hnext => exact ⟨_, .of_streamRead hrst hnext id hread rfl rfl⟩
  | known _ _ hread hnext _ htake | unknown _ _ hread hnext _ htake =>
    rw [(takeBuffer_frame htake).1]
    exact ⟨_, .of_streamRead hrst hnext id hread rfl rfl⟩

/-- A step where a command is accepted consumes nothing, and `POS` stays or becomes 0 (R224). -/
theorem Move.stream_of_ready (hrst : s.ports.rst = false) (hready : s.phase.ready = true) (h : Move s t) :
    t.ports.inBytes = s.ports.inBytes ∧ (t.pos = s.pos ∨ t.pos = 0) := by
  cases h with
  | reset hr => exact absurd hr (by simp [hrst])
  | idle | illegal | tbuild | tbuildWaits => exact ⟨rfl, .inl rfl⟩
  | refuse | run => simp [latchRun]
  | build hp | buildDone hp | header hp | data hp => simp [hp, Phase.ready] at hready

/-- A step of a busy phase consumes in order. -/
theorem Move.consumes_of_busy (hrst : s.ports.rst = false) (hbusy : s.phase.busy = true) (h : Move s t) :
    ∃ k, Consumes k s t := by
  have hnot := not_ready_of_busy hbusy
  cases h with
  | reset hr => exact absurd hr (by simp [hrst])
  | idle hr | illegal hr | tbuild hr | tbuildWaits hr | refuse hr | run hr => exact absurd hr hnot
  | build => exact ⟨0, .zero (by simp) (by simp)⟩
  | buildDone => exact ⟨0, .zero rfl rfl⟩
  | header hphase hstep hmove => exact hmove.consumes hrst hphase hstep
  | data _ _ hmove => exact hmove.consumes hrst

/-- Settles O48: a busy phase consumes what its read obtains, any other phase nothing. -/
theorem streamIsConsumedInOrder : Obligations.StreamIsConsumedInOrder := by
  intro s t hrst hstep
  have hmove := step_move hstep
  cases hbusy : s.phase.busy with
  | true =>
    obtain ⟨k, hle, hbytes, hpos, hready⟩ := hmove.consumes_of_busy hrst hbusy
    exact ⟨k, hle, hbytes, hready, fun _ => hpos, fun h => absurd h (by simp)⟩
  | false =>
    have hready : s.phase.ready = true := by rw [Phase.ready_eq_not_busy, hbusy]; rfl
    obtain ⟨hbytes, hpos⟩ := hmove.stream_of_ready hrst hready
    exact ⟨0, Nat.zero_le _, hbytes, fun h => absurd h (Nat.lt_irrefl 0), fun h => absurd h (by simp),
      fun _ => ⟨rfl, hpos⟩⟩

end

end Sys2Proof.Machine

/-! The engine bit by bit (R120 to R125): `REFLECT` reverses bits, so `TENTRY` is linear over XOR, and an entry of
the table is found again by its top byte. -/

namespace Sys2Proof.Machine

/-! ### `REFLECT` -/

/-- One pass of the loop of R120: bit `i` of the value goes to bit `w-1-i` of the result. -/
def reflectStep (v : Word) (w : Nat) (r : Word) (i : Nat) : Word :=
  if v.getLsbD i then r ||| (1#32 <<< (w - 1 - i)) else r

theorem getLsbD_reflectStep {v r : Word} {w i : Nat} (hw : w ≤ 32) (hi : i < w) (j : Nat) :
    (reflectStep v w r i).getLsbD j = (r.getLsbD j || decide (j = w - 1 - i) && v.getLsbD i) := by
  have hone : (1#32 <<< (w - 1 - i)).getLsbD j = decide (j = w - 1 - i) := by
    rw [BitVec.getLsbD_shiftLeft, BitVec.getLsbD_one]
    by_cases hj : j = w - 1 - i
    · simp [hj]; omega
    · simp [hj]; omega
  unfold reflectStep
  cases hbit : v.getLsbD i <;> simp [hone]

/-- After `n` passes the `n` top bits of the result's `w` bits are in place. -/
theorem getLsbD_reflectSteps {v : Word} {w : Nat} (hw : w ≤ 32) (j : Nat) :
    ∀ n, n ≤ w → ((List.range n).foldl (reflectStep v w) 0#32).getLsbD j =
      (decide (w - n ≤ j ∧ j < w) && v.getLsbD (w - 1 - j)) := by
  intro n
  induction n with
  | zero =>
    intro _
    have hnone : ¬ (w - 0 ≤ j ∧ j < w) := by omega
    rw [decide_eq_false hnone, Bool.false_and]
    exact BitVec.getLsbD_zero
  | succ n ih =>
    intro hn
    rw [List.range_succ, List.foldl_append, List.foldl_cons, List.foldl_nil,
      getLsbD_reflectStep hw (by omega), ih (by omega)]
    by_cases hj : j = w - 1 - n
    · have hback : w - 1 - j = n := by omega
      have hin : w - (n + 1) ≤ j ∧ j < w := by omega
      have hout : ¬ (w - n ≤ j ∧ j < w) := by omega
      rw [decide_eq_false hout, decide_eq_true hin, decide_eq_true hj, hback]
      simp
    · have hsame : (w - (n + 1) ≤ j ∧ j < w) ↔ (w - n ≤ j ∧ j < w) := by omega
      rw [decide_eq_false hj, decide_eq_decide.mpr hsame, Bool.false_and, Bool.or_false]

/-- R120: bit `j` of `REFLECT(v, w)`. -/
theorem getLsbD_reflect {v : Word} {w : Nat} (hw : w ≤ 32) (j : Nat) :
    (reflect v w).getLsbD j = (decide (j < w) && v.getLsbD (w - 1 - j)) := by
  change ((List.range w).foldl (reflectStep v w) 0#32).getLsbD j = _
  rw [getLsbD_reflectSteps hw j w (Nat.le_refl w), Nat.sub_self]
  simp

/-- R120: on a value of `w` bits `REFLECT` undoes itself. -/
theorem reflect_reflect {v : Word} {w : Nat} (hw : w ≤ 32) (hv : v.toNat < 2 ^ w) :
    reflect (reflect v w) w = v := by
  refine BitVec.eq_of_getLsbD_eq fun j _ => ?_
  rw [getLsbD_reflect hw, getLsbD_reflect hw]
  by_cases hj : j < w
  · have hback : w - 1 - (w - 1 - j) = j := by omega
    have hlt : w - 1 - j < w := by omega
    simp [hj, hback, hlt]
  · have hzero : v.getLsbD j = false :=
      Nat.testBit_lt_two_pow (Nat.lt_of_lt_of_le hv (Nat.pow_le_pow_right (by decide) (by omega)))
    simp [hj, hzero]

/-- Settles O6 with `getLsbD_reflect` and `reflect_reflect`. -/
theorem reflectReversesTheLowBits : Obligations.ReflectReversesTheLowBits := by
  intro v w s _ hw
  refine ⟨reflect v w, rfl, getLsbD_reflect hw, fun hv => ?_⟩
  change Host.Outcome.next { s with uopOut := reflect (reflect v w) w } = _
  rw [reflect_reflect hw hv]

/-! ### `TENTRY` is linear -/

theorem reflect_xor {a b : Word} {w : Nat} (hw : w ≤ 32) :
    reflect (a ^^^ b) w = reflect a w ^^^ reflect b w := by
  refine BitVec.eq_of_getLsbD_eq fun j _ => ?_
  simp only [BitVec.getLsbD_xor, getLsbD_reflect hw]
  cases decide (j < w) <;> simp

/-- One step of R121 subtracts `POLY` or not, by the top bit. -/
theorem polyStep_xor (a b : Word) : polyStep (a ^^^ b) = polyStep a ^^^ polyStep b := by
  unfold polyStep
  rw [BitVec.getLsbD_xor, BitVec.shiftLeft_xor_distrib]
  cases a.getLsbD 31 <;> cases b.getLsbD 31 <;> simp only [Bool.xor_true, Bool.xor_false, Bool.not_true,
    Bool.not_false, Bool.false_eq_true, if_true, if_false]
  case false.true => rw [BitVec.xor_assoc]
  case true.false => rw [BitVec.xor_assoc, BitVec.xor_assoc, BitVec.xor_comm (b <<< 1)]
  case true.true =>
    rw [BitVec.xor_comm (b <<< 1), ← BitVec.xor_assoc, BitVec.xor_assoc (a <<< 1), BitVec.xor_self,
      BitVec.xor_zero]

theorem polySteps_xor (n : Nat) : ∀ a b : Word, polySteps n (a ^^^ b) = polySteps n a ^^^ polySteps n b := by
  induction n with
  | zero => exact fun _ _ => rfl
  | succ n ih =>
    intro a b
    simp only [polySteps, polyStep_xor, ih]

/-- R121: `TENTRY` is a composition of linear operations. -/
theorem tentry_xor (a b : Byte) : tentry (a ^^^ b) = tentry a ^^^ tentry b := by
  unfold tentry
  rw [BitVec.setWidth_xor, reflect_xor (by decide), BitVec.shiftLeft_xor_distrib, polySteps_xor,
    reflect_xor (by decide)]

/-- Settles O7: the entry of the table by its index, and the linearity. -/
theorem tentryIsTheTableEntry : Obligations.TentryIsTheTableEntry := by
  refine ⟨fun b s => ?_, tentry_xor⟩
  change Host.Outcome.next { s with uopOut := tentry b } = _
  rw [tentry_eq_builtTable_getD]

/-! ### `TBUILD.LOOP` -/

/-- Settles O8: the build of an invalid table, entry by entry; over a valid one `tbuildLoop` is the identity. -/
theorem tableBuildWritesOnlyAnInvalidTable : Obligations.TableBuildWritesOnlyAnInvalidTable := by
  intro s
  refine ⟨fun hvalid => ?build, fun hvalid => ?keep⟩
  case build =>
    have hloop : tbuildLoop s = afterBuild { s with table := builtTable, tvalid := true } := by
      simp [tbuildLoop, hvalid]
    refine ⟨_, congrArg Host.Outcome.next hloop, builtTable_length, fun b => ?_, rfl⟩
    exact (tentry_eq_builtTable_getD b).symm
  case keep =>
    have hloop : tbuildLoop s = s := by simp [tbuildLoop, hvalid]
    exact congrArg Host.Outcome.next hloop

/-! ### `CRCUPD` and `CRCFIN` -/

/-- The index of R123, formed in 32 bits, is the byte that `crcUpd` forms in eight. -/
theorem crcIndex_toNat (st : Word) (b : Byte) :
    ((st &&& 0xFF#32) ^^^ b.setWidth 32).toNat = (st.setWidth 8 ^^^ b).toNat := by
  have hmask : (0xFF#32).toNat = 2 ^ 8 - 1 := rfl
  have hb : b.toNat % 2 ^ 32 = b.toNat := Nat.mod_eq_of_lt (Nat.lt_trans b.isLt (by decide))
  simp only [BitVec.toNat_xor, BitVec.toNat_and, hmask, Nat.and_two_pow_sub_one_eq_mod, BitVec.toNat_setWidth, hb]

/-- Settles O10: with `TVALID = 1` the entry read is the stored one. -/
theorem crcUpdateReadsTheTable : Obligations.CrcUpdateReadsTheTable := by
  intro st b s hvalid
  have hread : tableRead s (st.setWidth 8 ^^^ b) = s.table.getD (st.setWidth 8 ^^^ b).toNat 0#32 := by
    simp [tableRead, hvalid]
  rw [crcIndex_toNat, ← hread]
  rfl

/-- Settles O11: the free value of log 8 is a function of the counter and the index alone. -/
theorem crcUpdateBeforeTheBuildIgnoresTheStoredTable :
    Obligations.CrcUpdateBeforeTheBuildIgnoresTheStoredTable := by
  intro st b s words hvalid
  have hfree (u : State) (hu : u.tvalid = false) (hdraws : u.draws = s.draws) :
      tableRead u (st.setWidth 8 ^^^ b) = Config.tableUnbuilt s.draws (st.setWidth 8 ^^^ b) := by
    simp [tableRead, hu, hdraws]
  refine ⟨Config.tableUnbuilt s.draws (st.setWidth 8 ^^^ b), ?_, ?_⟩
  · rw [← hfree s hvalid rfl]
    rfl
  · rw [← hfree { s with table := words } hvalid rfl]
    rfl

/-- The only entry with top byte 0 is the first. -/
theorem eq_zero_of_tentry_top (b : Byte) (h : (tentry b).extractLsb' 24 8 = 0#8) : b = 0#8 := by
  have hall : ∀ b : Byte, (tentry b).extractLsb' 24 8 = 0#8 → b = 0#8 := by decide +kernel
  exact hall b h

/-- An entry is found by its top byte, because `TENTRY` is linear. -/
theorem tentry_top_injective {i j : Byte}
    (h : (tentry i).extractLsb' 24 8 = (tentry j).extractLsb' 24 8) : i = j := by
  have hzero : i ^^^ j = 0#8 := by
    refine eq_zero_of_tentry_top _ ?_
    rw [tentry_xor, BitVec.extractLsb'_xor, h, BitVec.xor_self]
  exact BitVec.xor_eq_zero_iff.mp hzero

/-- The shift of R123 empties the top byte, which is then the table entry's. -/
theorem crcUpd_top (tab : Byte → Word) (st : Word) (b : Byte) :
    (crcUpd tab st b).extractLsb' 24 8 = (tab (st.setWidth 8 ^^^ b)).extractLsb' 24 8 := by
  have hshift : (st >>> 8).extractLsb' 24 8 = 0#8 := by
    refine BitVec.eq_of_getLsbD_eq fun i hi => ?_
    simp only [BitVec.getLsbD_extractLsb', BitVec.getLsbD_ushiftRight, BitVec.getLsbD_zero]
    rw [BitVec.getLsbD_of_ge _ _ (by omega), Bool.and_false]
  rw [crcUpd, BitVec.extractLsb'_xor, hshift, BitVec.zero_xor]

/-- A word is its low byte and the rest. -/
theorem word_eq_of_low_of_shift {x y : Word} (hlow : x.setWidth 8 = y.setWidth 8) (hhigh : x >>> 8 = y >>> 8) :
    x = y := by
  have hl := congrArg BitVec.toNat hlow
  have hh := congrArg BitVec.toNat hhigh
  simp only [BitVec.toNat_setWidth, BitVec.toNat_ushiftRight, Nat.shiftRight_eq_div_pow] at hl hh
  exact BitVec.eq_of_toNat_eq (by omega)

/-- Settles O12: the top byte of the result names the entry, the entry the low byte of the state, and the rest of
the result the rest of the state. -/
theorem crcUpdateIsInjective : Obligations.CrcUpdateIsInjective := by
  intro b x y h
  have htab : (fun i : Byte => builtTable.getD i.toNat 0#32) = tentry :=
    funext fun i => (tentry_eq_builtTable_getD i).symm
  rw [htab] at h
  have hindex : x.setWidth 8 ^^^ b = y.setWidth 8 ^^^ b :=
    tentry_top_injective (by rw [← crcUpd_top, ← crcUpd_top, h])
  have hlow : x.setWidth 8 = y.setWidth 8 := (BitVec.xor_left_inj _).mp hindex
  have hhigh : x >>> 8 = y >>> 8 := by
    rw [crcUpd, crcUpd, hindex] at h
    exact (BitVec.xor_left_inj _).mp h
  exact word_eq_of_low_of_shift hlow hhigh

/-- R125: the final XOR is the complement. -/
theorem crcFin_eq_not (st : Word) : crcFin st = ~~~st := BitVec.xor_allOnes

/-- Settles O13: the value of `crcFin`, written both ways. -/
theorem crcFinalizeIsTheComplement : Obligations.CrcFinalizeIsTheComplement := by
  refine fun st s => ⟨rfl, ?_⟩
  rw [← crcFin_eq_not]
  rfl

end Sys2Proof.Machine

/-! The five accumulation operations as one traversal (R190, R196 to R200): each visits the samples of the whole
blocks in order, and each accumulator folds the bytes that the operation feeds to it. -/

namespace Sys2Proof.Machine

/-! ### Samples as runs of bytes -/

/-- Blocks of `m` bytes in a row are the bytes in a row. -/
theorem flatMap_range_blocks {α : Type} (f : Nat → α) (m n : Nat) :
    (List.range n).flatMap (fun k => (List.range m).map fun j => f (k * m + j)) =
      (List.range (n * m)).map f := by
  induction n with
  | zero => simp
  | succ n ih =>
    rw [List.range_succ, List.flatMap_append, ih, Nat.succ_mul, List.range_add, List.map_append,
      List.map_map]
    simp [Function.comp_def]

/-- The samples of all blocks, one after the other, are the bytes of the blocks (R190). -/
theorem flatMap_samples (rd : Nat → Byte) {ba bps nch : Nat} (hba : ba = bps * nch) (blocks : Nat) :
    (List.range blocks).flatMap (fun k => (List.range nch).flatMap (sampleBytes rd ba bps k)) =
      (List.range (blocks * ba)).map rd := by
  rw [← flatMap_range_blocks rd ba blocks]
  congr 1
  funext k
  have hblock := flatMap_range_blocks (fun x => rd (k * ba + x)) bps nch
  rw [Nat.mul_comm nch bps, ← hba] at hblock
  have hsample : sampleBytes rd ba bps k = fun c => (List.range bps).map fun j => rd (k * ba + (c * bps + j)) := by
    funext c
    simp only [sampleBytes, Nat.add_assoc]
  rw [hsample, hblock]

/-- A list is its own bytes in order. -/
theorem map_byteAt_range (d : List Byte) : (List.range d.length).map (byteAt d) = d := by
  refine List.ext_getElem (by simp) fun i hi _ => ?_
  have hlt : i < d.length := by simpa using hi
  simp [byteAt, hlt]

/-- The bytes of a list built from a read, where it has them. -/
theorem byteAt_map_range (rd : Nat → Byte) {n i : Nat} (hi : i < n) : byteAt ((List.range n).map rd) i = rd i := by
  simp [byteAt, hi]

/-- A traversal of the channels that stops at one channel alone. -/
theorem flatMap_range_single {α : Type} (f : Nat → List α) (i n : Nat) :
    (List.range n).flatMap (fun c => if c = i then f c else []) = if i < n then f i else [] := by
  induction n with
  | zero => simp
  | succ n ih =>
    rw [List.range_succ, List.flatMap_append, ih, List.flatMap_singleton]
    by_cases hi : i = n
    · subst hi
      simp
    · have hne : ¬ n = i := fun h => hi h.symm
      have hiff : i < n + 1 ↔ i < n := by omega
      simp [hne, hiff]

/-! ### The traversal -/

/-- The accumulators to which an operation feeds a sample of channel `c`, by whether it is null (R196 to R200). -/
def AccOp.targets (op : AccOp) (nacc : Nat) (sel : Half) (c : Nat) (null : Bool) : List Nat :=
  match op with
  | .blkAll => [0]
  | .blkNn => if null then [] else [0]
  | .chAll => if c < nacc ∧ sel.getLsbD c = true then [c] else []
  | .chNn => if c < nacc ∧ sel.getLsbD c = true ∧ null = false then [c] else []
  | .rpt => if null then [0] else if c = 0 then [0, 1, 2] else [0, 1]

/-- What an operation does with a sample: it feeds it to each of its accumulators. -/
def sampleVisit (tab : Byte → Word) (op : AccOp) (nacc : Nat) (sel : Half) (a : List Word) (c : Nat)
    (sample : List Byte) : List Word :=
  (op.targets nacc sel c (isNull sample)).foldl (fun a i => feed tab a i sample) a

/-- The accumulators after an operation over `GOT` bytes of a buffer. -/
def AccOp.acc (op : AccOp) (s : State) (rd : Nat → Byte) (got : Nat) : List Word :=
  let g : Geometry :=
    { blocks := got / s.fmt.ba.toNat, ba := s.fmt.ba.toNat, bps := s.bps.toNat, nch := s.fmt.nch.toNat }
  match op with
  | .blkAll => blkAllAcc (tableRead s) rd got s.acc
  | .blkNn => blkNnAcc (tableRead s) rd g s.acc
  | .chAll => chAllAcc (tableRead s) rd g s.params.nacc s.mode.sel s.acc
  | .chNn => chNnAcc (tableRead s) rd g s.params.nacc s.mode.sel s.acc
  | .rpt => rptAcc (tableRead s) rd g s.acc

/-- R203: the selected accumulation is that of the operation of the mode latch. -/
theorem accAfter_eq_acc (s : State) (rd : Nat → Byte) (got : Nat) :
    accAfter s rd got = (accOpOf s.mode).acc s rd got := by
  unfold accAfter
  cases accOpOf s.mode <;> rfl

/-- R196 over whole blocks: feeding every byte is feeding every sample. -/
theorem blkAllAcc_eq_overSamples (tab : Byte → Word) (rd : Nat → Byte) {ba bps nch got : Nat}
    (hba : ba = bps * nch) (hblocks : got % ba = 0) (acc : List Word) :
    blkAllAcc tab rd got acc =
      overSamples (got / ba) nch (fun a k c => feed tab a 0 (sampleBytes rd ba bps k c)) acc := by
  rw [overSamples_feed, flatMap_samples rd hba, Nat.div_mul_cancel (Nat.dvd_of_mod_eq_zero hblocks)]
  rfl

/-- Every operation but `ACC.BLK.ALL` is a traversal of the whole blocks, whatever lies after them. -/
theorem acc_eq_overSamples_of_ne {op : AccOp} (hop : op ≠ .blkAll) (s : State) (rd : Nat → Byte) (got : Nat) :
    op.acc s rd got = overSamples (got / s.fmt.ba.toNat) s.fmt.nch.toNat (fun a k c =>
      sampleVisit (tableRead s) op s.params.nacc s.mode.sel a c
        (sampleBytes rd s.fmt.ba.toNat s.bps.toNat k c)) s.acc := by
  cases op with
  | blkAll => exact absurd rfl hop
  | blkNn | chAll | chNn =>
    refine overSamples_eq_of_agree fun k c a _ _ => ?_
    simp only [sampleVisit, AccOp.targets]
    split <;> rfl
  | rpt =>
    refine overSamples_eq_of_agree fun k c a _ _ => ?_
    simp only [sampleVisit, AccOp.targets]
    split
    · rfl
    · split <;> rfl

/-- R190: over whole blocks every operation is a traversal of the samples. -/
theorem acc_eq_overSamples (op : AccOp) {s : State} (rd : Nat → Byte) {got : Nat}
    (hba : s.fmt.ba.toNat = s.bps.toNat * s.fmt.nch.toNat) (hblocks : got % s.fmt.ba.toNat = 0) :
    op.acc s rd got = overSamples (got / s.fmt.ba.toNat) s.fmt.nch.toNat (fun a k c =>
      sampleVisit (tableRead s) op s.params.nacc s.mode.sel a c
        (sampleBytes rd s.fmt.ba.toNat s.bps.toNat k c)) s.acc := by
  by_cases hop : op = .blkAll
  · subst hop
    exact blkAllAcc_eq_overSamples _ rd hba hblocks _
  · exact acc_eq_overSamples_of_ne hop s rd got

/-! ### One accumulator of a traversal -/

theorem targets_nodup (op : AccOp) (nacc : Nat) (sel : Half) (c : Nat) (null : Bool) :
    (op.targets nacc sel c null).Nodup := by
  unfold AccOp.targets
  cases op with
  | blkAll => exact List.nodup_singleton 0
  | blkNn | chAll | chNn =>
    simp only
    split
    · simp
    · simp
  | rpt =>
    simp only
    split
    · exact List.nodup_singleton 0
    · split <;> decide

section
variable {nacc i c : Nat} {sel : Half} {null : Bool}

theorem mem_targets_blkAll : i ∈ AccOp.blkAll.targets nacc sel c null ↔ i = 0 := List.mem_singleton

theorem mem_targets_blkNn : i ∈ AccOp.blkNn.targets nacc sel c null ↔ i = 0 ∧ null = false := by
  cases null <;> simp [AccOp.targets]

theorem mem_targets_chAll :
    i ∈ AccOp.chAll.targets nacc sel c null ↔ i = c ∧ c < nacc ∧ sel.getLsbD c = true := by
  by_cases h : c < nacc ∧ sel.getLsbD c = true <;> simp [AccOp.targets, h]

theorem mem_targets_chNn :
    i ∈ AccOp.chNn.targets nacc sel c null ↔ i = c ∧ c < nacc ∧ sel.getLsbD c = true ∧ null = false := by
  by_cases h : c < nacc ∧ sel.getLsbD c = true ∧ null = false <;> simp [AccOp.targets, h]

theorem mem_targets_rpt :
    i ∈ AccOp.rpt.targets nacc sel c null ↔ i = 0 ∨ i = 1 ∧ null = false ∨ i = 2 ∧ c = 0 ∧ null = false := by
  cases null
  · by_cases h : c = 0 <;> simp [AccOp.targets, h]
  · simp [AccOp.targets]

end

/-- Feeding a run of bytes to a list of accumulators keeps their number. -/
theorem foldl_feed_length (tab : Byte → Word) (m : List Byte) (l : List Nat) (a : List Word) :
    (l.foldl (fun a i => feed tab a i m) a).length = a.length := by
  induction l generalizing a with
  | nil => rfl
  | cons i l ih => rw [List.foldl_cons, ih, feed_length]

/-- Feeding a run of bytes to several accumulators folds it once into each of them. -/
theorem foldl_feed_getD (tab : Byte → Word) (m : List Byte) {l : List Nat} (hl : l.Nodup) {a : List Word} {j : Nat}
    (hj : j < a.length) : (l.foldl (fun a i => feed tab a i m) a).getD j 0#32 =
      crcFold tab (a.getD j 0#32) (if j ∈ l then m else []) := by
  induction l generalizing a with
  | nil => rfl
  | cons i l ih =>
    obtain ⟨hi, hl⟩ := List.nodup_cons.mp hl
    rw [List.foldl_cons, ih hl (by rwa [feed_length])]
    by_cases hji : j = i
    · subst hji
      rw [feed_getD_self tab a m hj, if_neg hi, if_pos List.mem_cons_self]
      rfl
    · rw [feed_getD_ne tab a m fun h => hji h.symm]
      simp only [List.mem_cons, hji, false_or]

/-- The bytes that an operation feeds to accumulator `i` over a buffer, in order. -/
def AccOp.fed (op : AccOp) (nacc : Nat) (sel : Half) (g : Geometry) (rd : Nat → Byte) (i : Nat) : List Byte :=
  (List.range g.blocks).flatMap fun k => (List.range g.nch).flatMap fun c =>
    if i ∈ op.targets nacc sel c (isNull (sampleBytes rd g.ba g.bps k c)) then sampleBytes rd g.ba g.bps k c else []

/-- Over a traversal that visits each sample with `sampleVisit`, an accumulator folds what is fed to it. -/
theorem overSamples_sampleVisit_getD (tab : Byte → Word) (op : AccOp) (nacc : Nat) (sel : Half) (g : Geometry)
    (rd : Nat → Byte) {acc : List Word} {i : Nat} (hi : i < acc.length) :
    (overSamples g.blocks g.nch
      (fun a k c => sampleVisit tab op nacc sel a c (sampleBytes rd g.ba g.bps k c)) acc).getD i 0#32 =
      crcFold tab (acc.getD i 0#32) (op.fed nacc sel g rd i) := by
  have hrel := overSamples_rel
    (fun a b : List Word => a.length = acc.length ∧ b.length = acc.length ∧ a.getD i 0#32 = b.getD i 0#32)
    (blocks := g.blocks) (nch := g.nch) (a := acc) (b := acc)
    (f := fun a k c => sampleVisit tab op nacc sel a c (sampleBytes rd g.ba g.bps k c))
    (g := fun a k c => feed tab a i (if i ∈ op.targets nacc sel c (isNull (sampleBytes rd g.ba g.bps k c)) then
      sampleBytes rd g.ba g.bps k c else []))
    ⟨rfl, rfl, rfl⟩ fun a b k c h => by
      obtain ⟨ha, hb, hab⟩ := h
      refine ⟨(foldl_feed_length ..).trans ha, (feed_length ..).trans hb, ?_⟩
      rw [feed_getD_self _ _ _ (by omega), ← hab]
      exact foldl_feed_getD tab _ (targets_nodup ..) (by omega)
  obtain ⟨-, -, hget⟩ := hrel
  rw [hget, overSamples_feed, feed_getD_self _ _ _ hi]
  rfl

/-- The geometry of `GOT` bytes in the format of a state. -/
def bufferGeometry (s : State) (got : Nat) : Geometry where
  blocks := got / s.fmt.ba.toNat
  ba := s.fmt.ba.toNat
  bps := s.bps.toNat
  nch := s.fmt.nch.toNat

/-- The closed form of one accumulator, for every operation over whole blocks. -/
theorem acc_getD (op : AccOp) {s : State} (rd : Nat → Byte) {got i : Nat}
    (hba : s.fmt.ba.toNat = s.bps.toNat * s.fmt.nch.toNat) (hblocks : got % s.fmt.ba.toNat = 0)
    (hi : i < s.acc.length) :
    (op.acc s rd got).getD i 0#32 = crcFold (tableRead s) (s.acc.getD i 0#32)
      (op.fed s.params.nacc s.mode.sel (bufferGeometry s got) rd i) := by
  rw [acc_eq_overSamples op rd hba hblocks]
  exact overSamples_sampleVisit_getD _ _ _ _ (bufferGeometry s got) rd hi

/-- The closed form of one accumulator, for the operations that visit samples. -/
theorem acc_getD_of_ne {op : AccOp} (hop : op ≠ .blkAll) (s : State) (rd : Nat → Byte) (got : Nat) {i : Nat}
    (hi : i < s.acc.length) :
    (op.acc s rd got).getD i 0#32 = crcFold (tableRead s) (s.acc.getD i 0#32)
      (op.fed s.params.nacc s.mode.sel (bufferGeometry s got) rd i) := by
  rw [acc_eq_overSamples_of_ne hop]
  exact overSamples_sampleVisit_getD _ _ _ _ (bufferGeometry s got) rd hi

theorem acc_length (op : AccOp) (s : State) (rd : Nat → Byte) (got : Nat) :
    (op.acc s rd got).length = s.acc.length := by
  by_cases hop : op = .blkAll
  · subst hop
    exact feed_length ..
  · rw [acc_eq_overSamples_of_ne hop]
    exact overSamples_length _ fun a k c => foldl_feed_length ..

/-! ### The bytes fed, in the terms of R205 -/

section
variable {nacc : Nat} {sel : Half} {g : Geometry} {d : List Byte} {i : Nat}

/-- Two accumulators to which the same samples are fed are fed the same bytes. -/
theorem fed_congr {op op' : AccOp} {rd : Nat → Byte} {j : Nat}
    (h : ∀ c null, i ∈ op.targets nacc sel c null ↔ j ∈ op'.targets nacc sel c null) :
    op.fed nacc sel g rd i = op'.fed nacc sel g rd j := by
  unfold AccOp.fed
  simp only [h]

/-- `ACC.BLK.ALL` feeds `ACC[0]` every byte of the blocks. -/
theorem fed_blkAll (hba : g.ba = g.bps * g.nch) (rd : Nat → Byte) :
    AccOp.blkAll.fed nacc sel g rd 0 = (List.range (g.blocks * g.ba)).map rd := by
  rw [← flatMap_samples rd hba]
  simp only [AccOp.fed, mem_targets_blkAll, if_true]

/-- `ACC.RPT` feeds `ACC[0]` what `ACC.BLK.ALL` feeds it (R200). -/
theorem fed_rpt_zero (rd : Nat → Byte) : AccOp.rpt.fed nacc sel g rd 0 = AccOp.blkAll.fed nacc sel g rd 0 :=
  fed_congr fun _ _ => by simp [mem_targets_rpt, mem_targets_blkAll]

/-- `ACC.RPT` feeds `ACC[1]` what `ACC.BLK.NN` feeds `ACC[0]` (R200). -/
theorem fed_rpt_one (rd : Nat → Byte) : AccOp.rpt.fed nacc sel g rd 1 = AccOp.blkNn.fed nacc sel g rd 0 :=
  fed_congr fun _ _ => by simp [mem_targets_rpt, mem_targets_blkNn]

/-- The sample itself or nothing, by the null test. -/
theorem ite_isNull (sample : List Byte) :
    (if isNull sample = false then sample else []) = if isNull sample then [] else sample := by
  cases isNull sample <;> rfl

/-- `ACC.BLK.NN` feeds `ACC[0]` the non-null samples. -/
theorem fed_blkNn : AccOp.blkNn.fed nacc sel g (byteAt d) 0 = nonNullBytes g d := by
  simp only [AccOp.fed, mem_targets_blkNn, true_and, ite_isNull]
  rfl

/-- A selected channel of the file and of the accumulator file is fed its samples (R198). -/
theorem fed_chAll (hi : i < nacc) (hsel : sel.getLsbD i = true) (hch : i < g.nch) :
    AccOp.chAll.fed nacc sel g (byteAt d) i = channelBytes g d i := by
  have hone (c : Nat) (null : Bool) : i ∈ AccOp.chAll.targets nacc sel c null ↔ c = i := by
    rw [mem_targets_chAll]
    exact ⟨fun h => h.1.symm, by rintro rfl; exact ⟨rfl, hi, hsel⟩⟩
  unfold AccOp.fed channelBytes
  congr 1; funext k
  simp only [hone]
  rw [flatMap_range_single (fun c => sampleBytes (byteAt d) g.ba g.bps k c), if_pos hch]

/-- The non-null samples of one channel, picked out of a traversal of all channels. -/
theorem flatMap_nonNull_single (hch : i < g.nch) (k : Nat) :
    ((List.range g.nch).flatMap fun c =>
      if c = i ∧ isNull (sampleBytes (byteAt d) g.ba g.bps k c) = false then
        sampleBytes (byteAt d) g.ba g.bps k c else []) =
      if isNull (sampleBytes (byteAt d) g.ba g.bps k i) then [] else sampleBytes (byteAt d) g.ba g.bps k i := by
  simp only [ite_and, ite_isNull]
  rw [flatMap_range_single (fun c => if isNull (sampleBytes (byteAt d) g.ba g.bps k c) then [] else
    sampleBytes (byteAt d) g.ba g.bps k c), if_pos hch]

/-- A selected channel of the file and of the accumulator file is fed its non-null samples (R199). -/
theorem fed_chNn (hi : i < nacc) (hsel : sel.getLsbD i = true) (hch : i < g.nch) :
    AccOp.chNn.fed nacc sel g (byteAt d) i = channelNonNullBytes g d i := by
  have hone (c : Nat) (null : Bool) : i ∈ AccOp.chNn.targets nacc sel c null ↔ c = i ∧ null = false := by
    rw [mem_targets_chNn]
    exact ⟨fun h => ⟨h.1.symm, h.2.2.2⟩, by rintro ⟨rfl, hnull⟩; exact ⟨rfl, hi, hsel, hnull⟩⟩
  unfold AccOp.fed channelNonNullBytes
  congr 1; funext k
  simp only [hone, flatMap_nonNull_single hch]

/-- `ACC.RPT` feeds `ACC[2]` the non-null samples of channel 0 (R200). -/
theorem fed_rpt_two (hch : 0 < g.nch) : AccOp.rpt.fed nacc sel g (byteAt d) 2 = channelNonNullBytes g d 0 := by
  have hone (c : Nat) (null : Bool) : 2 ∈ AccOp.rpt.targets nacc sel c null ↔ c = 0 ∧ null = false := by
    simp [mem_targets_rpt]
  unfold AccOp.fed channelNonNullBytes
  congr 1; funext k
  simp only [hone, flatMap_nonNull_single hch]

/-- `ACC.RPT` feeds `ACC[2]` what `ACC.CH.NN` feeds `ACC[0]` where channel 0 is selected (R200). -/
theorem fed_rpt_two_eq_chNn (hn : 0 < nacc) (hsel : sel.getLsbD 0 = true) (rd : Nat → Byte) :
    AccOp.rpt.fed nacc sel g rd 2 = AccOp.chNn.fed nacc sel g rd 0 := by
  refine fed_congr fun c null => ?_
  rw [mem_targets_rpt, mem_targets_chNn]
  constructor
  · rintro (h | h | ⟨-, rfl, hnull⟩)
    · exact absurd h (by decide)
    · exact absurd h.1 (by decide)
    · exact ⟨rfl, hn, hsel, hnull⟩
  · rintro ⟨rfl, -, -, hnull⟩
    exact .inr (.inr ⟨rfl, rfl, hnull⟩)

/-- An accumulator to which no sample is fed. -/
theorem fed_eq_nil {op : AccOp} {rd : Nat → Byte}
    (h : ∀ c null, c < g.nch → i ∉ op.targets nacc sel c null) : op.fed nacc sel g rd i = [] := by
  unfold AccOp.fed
  simp only [List.flatMap_eq_nil_iff, List.mem_range]
  exact fun k _ c hc => if_neg (h c _ hc)

end

end Sys2Proof.Machine

/-! The accumulation operations performed by themselves (R190 to R205): where they stop, what each leaves in the
accumulators, and how they agree over special buffers. -/

namespace Sys2Proof.Machine

section
variable {s : State}

/-! ### Where an accumulation answers -/

/-- R31, R190: the samples lie inside `BUF` exactly when the whole blocks do. -/
theorem samplesInside_iff (h0 : s.fmt.ba.toNat ≠ 0) (hba : s.fmt.ba.toNat = s.bps.toNat * s.fmt.nch.toNat) :
    samplesInside (geometryOf s) s.bufsz.toNat = true ↔
      s.cnt.got.toNat / s.fmt.ba.toNat * s.fmt.ba.toNat ≤ s.bufsz.toNat := by
  simp only [samplesInside, geometryOf, Nat.mul_comm s.fmt.nch.toNat, ← hba, Bool.or_eq_true, beq_iff_eq,
    decide_eq_true_eq, h0, or_false]
  rcases Nat.eq_zero_or_pos (s.cnt.got.toNat / s.fmt.ba.toNat) with hb | hb
  · simp [hb]
  · have hlast : (s.cnt.got.toNat / s.fmt.ba.toNat - 1) * s.fmt.ba.toNat + s.fmt.ba.toNat =
        s.cnt.got.toNat / s.fmt.ba.toNat * s.fmt.ba.toNat := by
      rw [← Nat.succ_mul, Nat.succ_eq_add_one, Nat.sub_add_cancel hb]
    rw [hlast]
    omega

/-- What the four operations over samples do (R190, log 12, log 13). -/
theorem exec_accSamples {op : AccOp} (hop : op ≠ .blkAll) :
    exec op.instr s =
      if s.fmt.ba.toNat = 0 then .fault .zeroBlockAlign
      else if samplesInside (geometryOf s) s.bufsz.toNat then
        .next (withAcc s (op.acc s (Memory.read s.buf) s.cnt.got.toNat))
      else .fault .bufferOverrun := by
  cases op with
  | blkAll => exact absurd rfl hop
  | blkNn | chAll | chNn | rpt => rfl

/-- An operation over samples whose whole blocks lie inside `BUF`. -/
theorem exec_accSamples_inside {op : AccOp} (hop : op ≠ .blkAll) (h0 : s.fmt.ba.toNat ≠ 0)
    (hba : s.fmt.ba.toNat = s.bps.toNat * s.fmt.nch.toNat)
    (hin : s.cnt.got.toNat / s.fmt.ba.toNat * s.fmt.ba.toNat ≤ s.bufsz.toNat) :
    exec op.instr s = .next (withAcc s (op.acc s (Memory.read s.buf) s.cnt.got.toNat)) := by
  rw [exec_accSamples hop, if_neg h0, if_pos ((samplesInside_iff h0 hba).mpr hin)]

/-- `ACC.BLK.ALL` over a buffer inside `BUF`. -/
theorem exec_accBlkAll_inside (hin : s.cnt.got.toNat ≤ s.bufsz.toNat) :
    exec .accBlkAll s = .next (withAcc s (AccOp.blkAll.acc s (Memory.read s.buf) s.cnt.got.toNat)) :=
  if_pos hin

/-- Any of the five operations over a buffer inside `BUF`. -/
theorem exec_acc_inside (op : AccOp) (h0 : s.fmt.ba.toNat ≠ 0)
    (hba : s.fmt.ba.toNat = s.bps.toNat * s.fmt.nch.toNat) (hin : s.cnt.got.toNat ≤ s.bufsz.toNat) :
    exec op.instr s = .next (withAcc s (op.acc s (Memory.read s.buf) s.cnt.got.toNat)) := by
  by_cases hop : op = .blkAll
  · subst hop
    exact exec_accBlkAll_inside hin
  · exact exec_accSamples_inside hop h0 hba (Nat.le_trans (Nat.div_mul_le_self _ _) hin)

/-- Every operation depends on the bytes below `GOT` alone. -/
theorem acc_eq_of_agree (op : AccOp) {rd rd' : Nat → Byte} {got : Nat}
    (hba : s.fmt.ba.toNat = s.bps.toNat * s.fmt.nch.toNat) (h : ∀ i, i < got → rd i = rd' i) :
    op.acc s rd got = op.acc s rd' got := by
  by_cases hop : op = .blkAll
  · subst hop
    exact congrArg (feed _ _ 0) (List.map_congr_left fun a ha => h a (by simpa using ha))
  · rw [acc_eq_overSamples_of_ne hop, acc_eq_overSamples_of_ne hop]
    refine overSamples_eq_of_agree fun k c a hk hc => ?_
    rw [sampleBytes_eq_of_agree hba hk hc fun i hi => h i (Nat.lt_of_lt_of_le hi (Nat.div_mul_le_self _ _))]

/-- The bytes of `BUF` below `GOT`, as one list. -/
theorem acc_eq_of_bytes (op : AccOp) {d : List Byte} {got : Nat} (rd : Nat → Byte)
    (hba : s.fmt.ba.toNat = s.bps.toNat * s.fmt.nch.toNat) (hd : d = (List.range got).map rd) :
    op.acc s rd got = op.acc s (byteAt d) got :=
  acc_eq_of_agree op hba fun i hi => by rw [hd, byteAt_map_range rd hi]

/-! ### The block modes -/

/-- `ACC.BLK.NN` is one feed of the non-null samples. -/
theorem blkNn_acc_eq_feed (d : List Byte) (got : Nat) :
    AccOp.blkNn.acc s (byteAt d) got =
      feed (tableRead s) s.acc 0 (nonNullBytes (bufferGeometry s got) d) := by
  unfold nonNullBytes
  rw [← overSamples_feed]
  refine overSamples_eq_of_agree fun k c a _ _ => ?_
  cases hnull : isNull (sampleBytes (byteAt d) s.fmt.ba.toNat s.bps.toNat k c) <;>
    simp [bufferGeometry, hnull]

/-- Settles O34: each block operation is one feed to `ACC[0]`. -/
theorem blockModesFeedTheBlockAccumulator : Obligations.BlockModesFeedTheBlockAccumulator := by
  intro s d hd
  refine ⟨fun hin => ?all, fun h0 hba hin => ?nonNull⟩
  case all =>
    rw [exec_accBlkAll_inside hin, hd]
    rfl
  case nonNull =>
    have hexec := exec_accSamples_inside (op := .blkNn) (by decide) h0 hba hin
    rw [acc_eq_of_bytes .blkNn _ hba hd, blkNn_acc_eq_feed] at hexec
    exact hexec

/-! ### The per-channel modes -/

/-- An operation over samples leaves as it is an accumulator to which it feeds nothing. -/
theorem acc_getD_of_no_target {op : AccOp} (hop : op ≠ .blkAll) (rd : Nat → Byte) (got : Nat) {i : Nat}
    (hi : i < s.acc.length)
    (hnone : ∀ c null, c < s.fmt.nch.toNat → i ∉ op.targets s.params.nacc s.mode.sel c null) :
    (op.acc s rd got).getD i 0#32 = s.acc.getD i 0#32 := by
  rw [acc_getD_of_ne hop s rd got hi, fed_eq_nil hnone]
  rfl

/-- The per-channel operations feed channel `i` to `ACC[i]` alone, and only if it is selected. -/
theorem not_mem_targets_channel {nacc nch i c : Nat} {sel : Half} (null : Bool) (hc : c < nch)
    (hi : nch ≤ i ∨ sel.getLsbD i = false) :
    i ∉ AccOp.chAll.targets nacc sel c null ∧ i ∉ AccOp.chNn.targets nacc sel c null := by
  rw [mem_targets_chAll, mem_targets_chNn]
  have hunselected : ¬ (i = c ∧ sel.getLsbD c = true) := by
    rintro ⟨rfl, hsel⟩
    rcases hi with hi | hi
    · omega
    · exact absurd hsel (by simp [hi])
  exact ⟨fun h => hunselected ⟨h.1, h.2.2⟩, fun h => hunselected ⟨h.1, h.2.2.1⟩⟩

/-- Settles O36 with the closed form of one accumulator, for a channel that is fed and for one that is not. -/
theorem perChannelFeedsEachSelectedChannel : Obligations.PerChannelFeedsEachSelectedChannel := by
  intro s d h0 hba hin hlen hd
  refine ⟨_, _, exec_accSamples_inside (op := .chAll) (by decide) h0 hba hin,
    exec_accSamples_inside (op := .chNn) (by decide) h0 hba hin, acc_length .., acc_length .., fun c hc => ?_⟩
  rw [acc_eq_of_bytes .chAll _ hba hd, acc_eq_of_bytes .chNn _ hba hd]
  have hlt : c < s.acc.length := by omega
  refine ⟨fun hch hsel => ⟨?_, ?_⟩, fun hunfed => ⟨?_, ?_⟩⟩
  · rw [acc_getD_of_ne (by decide) s _ _ hlt, fed_chAll hc hsel hch]
    rfl
  · rw [acc_getD_of_ne (by decide) s _ _ hlt, fed_chNn hc hsel hch]
    rfl
  · exact acc_getD_of_no_target (by decide) _ _ hlt fun _ null hc => (not_mem_targets_channel null hc hunfed).1
  · exact acc_getD_of_no_target (by decide) _ _ hlt fun _ null hc => (not_mem_targets_channel null hc hunfed).2

/-! ### The report mode -/

/-- Two accumulator files of one size with the same values are equal. -/
theorem accFile_ext {a b : List Word} (hlen : a.length = b.length)
    (h : ∀ i, i < a.length → a.getD i 0#32 = b.getD i 0#32) : a = b := by
  refine List.ext_getElem hlen fun i hi hi' => ?_
  have hget := h i hi
  rwa [List.getD_eq_getElem _ _ hi, List.getD_eq_getElem _ _ hi'] at hget

/-- `ACC.RPT` feeds no accumulator above `ACC[2]`. -/
theorem not_mem_targets_rpt {nacc i c : Nat} {sel : Half} {null : Bool} (hi : 3 ≤ i) :
    i ∉ AccOp.rpt.targets nacc sel c null := by
  rw [mem_targets_rpt]
  omega

/-- A format in order has a channel. -/
theorem nch_pos (h0 : s.fmt.ba.toNat ≠ 0) (hba : s.fmt.ba.toNat = s.bps.toNat * s.fmt.nch.toNat) :
    0 < s.fmt.nch.toNat := by
  refine Nat.pos_of_ne_zero fun hzero => h0 ?_
  rw [hba, hzero, Nat.mul_zero]

/-- Settles O37, accumulator by accumulator. -/
theorem reportFeedsTheThreeVariants : Obligations.ReportFeedsTheThreeVariants := by
  intro s d h0 hba hblocks hin hd
  have hexec := exec_acc_inside .rpt h0 hba hin
  rw [acc_eq_of_bytes .rpt _ hba hd] at hexec
  refine hexec.trans (congrArg (fun a => Host.Outcome.next { s with acc := a }) ?_)
  have hlen : d.length = s.cnt.got.toNat := by simp [hd]
  have hbytes : (List.range (s.cnt.got.toNat / s.fmt.ba.toNat * s.fmt.ba.toNat)).map (byteAt d) = d := by
    rw [Nat.div_mul_cancel (Nat.dvd_of_mod_eq_zero hblocks), ← hlen, map_byteAt_range]
  refine accFile_ext (by simp [acc_length]) fun i hi => ?_
  have hi : i < s.acc.length := by rwa [acc_length] at hi
  rw [acc_getD .rpt _ hba hblocks hi]
  rcases (by omega : i = 0 ∨ i = 1 ∨ i = 2 ∨ 3 ≤ i) with rfl | rfl | rfl | hge
  · rw [fed_rpt_zero, fed_blkAll hba]
    simp only [bufferGeometry, hbytes]
    simp [hi]
  · rw [fed_rpt_one, fed_blkNn]
    simp [hi, bufferGeometry, geometryOf]
  · rw [fed_rpt_two (nch_pos h0 hba)]
    simp [hi, bufferGeometry, geometryOf]
  · rw [fed_eq_nil fun c null _ => not_mem_targets_rpt hge]
    have h0 : ¬ 0 = i := by omega
    have h1 : ¬ 1 = i := by omega
    have h2 : ¬ 2 = i := by omega
    simp [crcFold, h0, h1, h2]

/-! ### Null samples -/

/-- R191, byte by byte. -/
theorem isNull_sampleBytes_iff (rd : Nat → Byte) (ba bps k c : Nat) :
    isNull (sampleBytes rd ba bps k c) = true ↔ ∀ j, j < bps → rd (k * ba + c * bps + j) = 0#8 := by
  simp [isNull_iff, sampleBytes]

/-- Two operations that feed every sample of the buffer to the same accumulators do the same. -/
theorem acc_eq_of_targets {op op' : AccOp} {rd : Nat → Byte} {got : Nat}
    (hba : s.fmt.ba.toNat = s.bps.toNat * s.fmt.nch.toNat) (hblocks : got % s.fmt.ba.toNat = 0)
    (h : ∀ k c, k < got / s.fmt.ba.toNat → c < s.fmt.nch.toNat →
      op.targets s.params.nacc s.mode.sel c (isNull (sampleBytes rd s.fmt.ba.toNat s.bps.toNat k c)) =
        op'.targets s.params.nacc s.mode.sel c (isNull (sampleBytes rd s.fmt.ba.toNat s.bps.toNat k c))) :
    op.acc s rd got = op'.acc s rd got := by
  rw [acc_eq_overSamples op rd hba hblocks, acc_eq_overSamples op' rd hba hblocks]
  refine overSamples_eq_of_agree fun k c a hk hc => ?_
  unfold sampleVisit
  rw [h k c hk hc]

/-- A traversal that changes nothing at any sample changes nothing. -/
theorem overSamples_eq_self {blocks nch : Nat} {f : List Word → Nat → Nat → List Word} (acc : List Word)
    (h : ∀ k c a, k < blocks → c < nch → f a k c = a) : overSamples blocks nch f acc = acc := by
  rw [overSamples_eq_of_agree (g := fun a _ _ => a) h]
  unfold overSamples
  simp only [List.foldl_fixed]

/-- An operation that feeds no sample of the buffer changes nothing. -/
theorem acc_eq_self_of_targets {op : AccOp} {rd : Nat → Byte} {got : Nat}
    (hba : s.fmt.ba.toNat = s.bps.toNat * s.fmt.nch.toNat) (hblocks : got % s.fmt.ba.toNat = 0)
    (h : ∀ k c, k < got / s.fmt.ba.toNat → c < s.fmt.nch.toNat →
      op.targets s.params.nacc s.mode.sel c (isNull (sampleBytes rd s.fmt.ba.toNat s.bps.toNat k c)) = []) :
    op.acc s rd got = s.acc := by
  rw [acc_eq_overSamples op rd hba hblocks]
  refine overSamples_eq_self _ fun k c a hk hc => ?_
  unfold sampleVisit
  rw [h k c hk hc]
  rfl

/-- Over null samples only, the bytes of the blocks are zero. -/
theorem map_range_eq_zeros {rd : Nat → Byte} {ba bps nch blocks : Nat} (hba : ba = bps * nch)
    (h : ∀ k c, k < blocks → c < nch → isNull (sampleBytes rd ba bps k c) = true) :
    (List.range (blocks * ba)).map rd = List.replicate (blocks * ba) 0#8 := by
  rw [← flatMap_samples rd hba]
  refine List.eq_replicate_iff.mpr ⟨?_, fun b hb => ?_⟩
  · rw [flatMap_samples rd hba, List.length_map, List.length_range]
  · simp only [List.mem_flatMap, List.mem_range] at hb
    obtain ⟨k, hk, c, hc, hmem⟩ := hb
    exact (isNull_iff _).mp (h k c hk hc) b hmem

/-- R204 (c): with one channel, selected, the per-channel operations feed what the block operations feed. -/
theorem targets_mono {nacc : Nat} {sel : Half} (hn : 0 < nacc) (hsel : sel.getLsbD 0 = true) (null : Bool) :
    AccOp.chAll.targets nacc sel 0 null = AccOp.blkAll.targets nacc sel 0 null ∧
      AccOp.chNn.targets nacc sel 0 null = AccOp.blkNn.targets nacc sel 0 null := by
  cases null <;> simp [AccOp.targets, hn, hsel]

/-- Two accumulators fold the same if they start equal and are fed the same. -/
theorem acc_getD_eq {op op' : AccOp} {rd : Nat → Byte} {got i j : Nat}
    (hba : s.fmt.ba.toNat = s.bps.toNat * s.fmt.nch.toNat) (hblocks : got % s.fmt.ba.toNat = 0)
    (hi : i < s.acc.length) (hj : j < s.acc.length) (hstart : s.acc.getD i 0#32 = s.acc.getD j 0#32)
    (hfed : op.fed s.params.nacc s.mode.sel (bufferGeometry s got) rd i =
      op'.fed s.params.nacc s.mode.sel (bufferGeometry s got) rd j) :
    (op.acc s rd got).getD i 0#32 = (op'.acc s rd got).getD j 0#32 := by
  rw [acc_getD op rd hba hblocks hi, acc_getD op' rd hba hblocks hj, hstart, hfed]

end

/-! ### R204 over a buffer of whole blocks -/

section
variable {s : State}

/-- A buffer of whole blocks inside `BUF`, in a format in order. -/
structure WholeBlocks (s : State) : Prop where
  nonzero : s.fmt.ba.toNat ≠ 0
  geometry : s.fmt.ba.toNat = s.bps.toNat * s.fmt.nch.toNat
  blocks : s.cnt.got.toNat % s.fmt.ba.toNat = 0
  inside : s.cnt.got.toNat ≤ s.bufsz.toNat

/-- Whether sample (`k`, `c`) of `BUF` is null. -/
def nullAt (s : State) (k c : Nat) : Bool :=
  isNull (sampleBytes (Memory.read s.buf) s.fmt.ba.toNat s.bps.toNat k c)

/-- What an operation does over whole blocks. -/
theorem WholeBlocks.exec (h : WholeBlocks s) (op : AccOp) :
    exec op.instr s = .next (withAcc s (op.acc s (Memory.read s.buf) s.cnt.got.toNat)) :=
  exec_acc_inside op h.nonzero h.geometry h.inside

/-- Two operations that feed every sample to the same accumulators. -/
theorem WholeBlocks.exec_eq (h : WholeBlocks s) {op op' : AccOp}
    (htargets : ∀ k c, k < s.cnt.got.toNat / s.fmt.ba.toNat → c < s.fmt.nch.toNat →
      op.targets s.params.nacc s.mode.sel c (nullAt s k c) =
        op'.targets s.params.nacc s.mode.sel c (nullAt s k c)) :
    Machine.exec op.instr s = Machine.exec op'.instr s := by
  rw [h.exec, h.exec, acc_eq_of_targets h.geometry h.blocks htargets]

/-- An operation that feeds no sample. -/
theorem WholeBlocks.exec_eq_self (h : WholeBlocks s) {op : AccOp}
    (htargets : ∀ k c, k < s.cnt.got.toNat / s.fmt.ba.toNat → c < s.fmt.nch.toNat →
      op.targets s.params.nacc s.mode.sel c (nullAt s k c) = []) : Machine.exec op.instr s = .next s := by
  rw [h.exec, acc_eq_self_of_targets h.geometry h.blocks htargets]
  rfl

/-- R204 (a): no null sample. -/
theorem WholeBlocks.exec_of_none_null (h : WholeBlocks s)
    (hnone : ∀ k c, k < s.cnt.got.toNat / s.fmt.ba.toNat → c < s.fmt.nch.toNat → nullAt s k c = false) :
    Machine.exec .accBlkNn s = Machine.exec .accBlkAll s ∧
      Machine.exec .accChNn s = Machine.exec .accChAll s := by
  constructor
  · refine h.exec_eq (op := .blkNn) (op' := .blkAll) fun k c hk hc => ?_
    rw [hnone k c hk hc]
    rfl
  · refine h.exec_eq (op := .chNn) (op' := .chAll) fun k c hk hc => ?_
    rw [hnone k c hk hc]
    simp [AccOp.targets]

/-- R204 (b): null samples only. -/
theorem WholeBlocks.exec_of_all_null (h : WholeBlocks s)
    (hall : ∀ k c, k < s.cnt.got.toNat / s.fmt.ba.toNat → c < s.fmt.nch.toNat → nullAt s k c = true) :
    Machine.exec .accBlkNn s = .next s ∧ Machine.exec .accChNn s = .next s ∧
      Machine.exec .accBlkAll s = .next { s with
        acc := s.acc.set 0 (crcFold (tableRead s) (s.acc.getD 0 0#32) (List.replicate s.cnt.got.toNat 0#8)) } := by
  refine ⟨?_, ?_, ?_⟩
  · refine h.exec_eq_self (op := .blkNn) fun k c hk hc => ?_
    rw [hall k c hk hc]
    rfl
  · refine h.exec_eq_self (op := .chNn) fun k c hk hc => ?_
    rw [hall k c hk hc]
    simp [AccOp.targets]
  · have hzeros := map_range_eq_zeros h.geometry hall
    rw [Nat.div_mul_cancel (Nat.dvd_of_mod_eq_zero h.blocks)] at hzeros
    rw [← hzeros]
    exact h.exec .blkAll

/-- R204 (c): one channel, selected. -/
theorem WholeBlocks.exec_of_mono (h : WholeBlocks s) (hone : s.fmt.nch.toNat = 1) (hn : 0 < s.params.nacc)
    (hsel : s.mode.sel.getLsbD 0 = true) :
    Machine.exec .accChAll s = Machine.exec .accBlkAll s ∧
      Machine.exec .accChNn s = Machine.exec .accBlkNn s := by
  constructor
  · refine h.exec_eq (op := .chAll) (op' := .blkAll) fun k c hk hc => ?_
    obtain rfl : c = 0 := by omega
    exact (targets_mono hn hsel _).1
  · refine h.exec_eq (op := .chNn) (op' := .blkNn) fun k c hk hc => ?_
    obtain rfl : c = 0 := by omega
    exact (targets_mono hn hsel _).2

end

/-- Settles O38: the null test decides to which accumulators a sample is fed, and so what the operations do. -/
theorem nullSamplesDecideTheNoNullModes : Obligations.NullSamplesDecideTheNoNullModes := by
  intro s h0 hba hblocks hin null blocks
  have h : WholeBlocks s := ⟨h0, hba, hblocks, hin⟩
  have hnull (k c : Nat) : nullAt s k c = true ↔ null k c := isNull_sampleBytes_iff _ _ _ _ _
  refine ⟨hnull, fun hnone => h.exec_of_none_null fun k c hk hc => ?_,
    fun hall => h.exec_of_all_null fun k c hk hc => (hnull k c).mpr (hall k c hk hc),
    h.exec_of_mono, fun hlen hn hsel h1 h2 => ?report⟩
  · exact Bool.eq_false_iff.mpr fun htrue => hnone k c hk hc ((hnull k c).mp htrue)
  case report =>
    exact ⟨_, _, _, _, h.exec .rpt, h.exec .blkAll, h.exec .blkNn, h.exec .chNn,
      acc_getD_eq hba hblocks (by omega) (by omega) rfl (fed_rpt_zero _),
      acc_getD_eq hba hblocks (by omega) (by omega) h1 (fed_rpt_one _),
      acc_getD_eq hba hblocks (by omega) (by omega) h2 (fed_rpt_two_eq_chNn hn hsel _)⟩

/-! ### Buffer boundaries -/

section
variable {s : State}

/-- A traversal of `m + n` blocks is one of `m` blocks and one of the `n` after them. -/
theorem overSamples_add (m n nch : Nat) (f : List Word → Nat → Nat → List Word) (acc : List Word) :
    overSamples (m + n) nch f acc =
      overSamples n nch (fun a k c => f a (m + k) c) (overSamples m nch f acc) := by
  unfold overSamples
  rw [List.range_add, List.foldl_append, List.foldl_map]

/-- A sample of a later buffer is a sample of the whole, further on. -/
theorem sampleBytes_append_right {d e : List Byte} {ba bps k c m : Nat} (hlen : d.length = m * ba) :
    sampleBytes (byteAt (d ++ e)) ba bps (m + k) c = sampleBytes (byteAt e) ba bps k c := by
  refine List.map_congr_left fun j _ => ?_
  have hindex : (m + k) * ba + c * bps + j = d.length + (k * ba + c * bps + j) := by
    rw [Nat.add_mul, hlen]
    omega
  rw [hindex, byteAt, byteAt, List.getD_append_right _ _ _ _ (Nat.le_add_right _ _), Nat.add_sub_cancel_left]

/-- A sample of the first buffer is a sample of the whole. -/
theorem byteAt_append_left {d e : List Byte} {i : Nat} (hi : i < d.length) : byteAt (d ++ e) i = byteAt d i :=
  List.getD_append _ _ _ _ hi

/-- R181: two buffers of whole blocks, one after the other, for every operation. -/
theorem acc_append (op : AccOp) (hba : s.fmt.ba.toNat = s.bps.toNat * s.fmt.nch.toNat) {d e : List Byte}
    (hd : d.length % s.fmt.ba.toNat = 0) (he : e.length % s.fmt.ba.toNat = 0) :
    op.acc (withAcc s (op.acc s (byteAt d) d.length)) (byteAt e) e.length =
      op.acc s (byteAt (d ++ e)) (d ++ e).length := by
  have hdiv : (d ++ e).length / s.fmt.ba.toNat = d.length / s.fmt.ba.toNat + e.length / s.fmt.ba.toNat := by
    rw [List.length_append, Nat.add_div_of_dvd_right (Nat.dvd_of_mod_eq_zero hd)]
  have hmod : (d ++ e).length % s.fmt.ba.toNat = 0 := by
    rw [List.length_append, Nat.add_mod, hd, he, Nat.add_zero, Nat.zero_mod]
  have hlen : d.length = d.length / s.fmt.ba.toNat * s.fmt.ba.toNat :=
    (Nat.div_mul_cancel (Nat.dvd_of_mod_eq_zero hd)).symm
  rw [acc_eq_overSamples op (s := withAcc s (op.acc s (byteAt d) d.length)) (byteAt e) hba he,
    acc_eq_overSamples op (byteAt d) hba hd,
    acc_eq_overSamples op (byteAt (d ++ e)) hba hmod, hdiv, overSamples_add]
  simp only [withAcc_acc, withAcc_fmt, withAcc_bps, withAcc_params, withAcc_mode]
  have hfirst : overSamples (d.length / s.fmt.ba.toNat) s.fmt.nch.toNat (fun a k c =>
        sampleVisit (tableRead s) op s.params.nacc s.mode.sel a c
          (sampleBytes (byteAt (d ++ e)) s.fmt.ba.toNat s.bps.toNat k c)) s.acc =
      overSamples (d.length / s.fmt.ba.toNat) s.fmt.nch.toNat (fun a k c =>
        sampleVisit (tableRead s) op s.params.nacc s.mode.sel a c
          (sampleBytes (byteAt d) s.fmt.ba.toNat s.bps.toNat k c)) s.acc := by
    refine overSamples_eq_of_agree fun k c a hk hc => ?_
    rw [sampleBytes_eq_of_agree hba hk hc fun i hi => byteAt_append_left (by omega)]
  rw [hfirst]
  refine overSamples_eq_of_agree fun k c a _ _ => ?_
  rw [sampleBytes_append_right hlen]
  rfl

end

/-- Settles O39: the boundary falls between two blocks of one traversal. -/
theorem accumulationIgnoresBufferBoundaries : Obligations.AccumulationIgnoresBufferBoundaries := by
  intro s d e _ hba hd he
  rw [accAfter_eq_acc, accAfter_eq_acc, accAfter_eq_acc]
  exact acc_append _ hba hd he

end Sys2Proof.Machine

/-! The data phase operation by operation (R172 to R174): the start of the loop, a buffer taken, a read cut short,
and where an operation has no quotient or no byte. -/

namespace Sys2Proof.Machine

section
variable {s : State}

/-! ### The start -/

/-- R172: after the start the loop has not terminated. -/
theorem loopDone_dataStart (s : State) : loopDone (dataStart s) = false := by
  unfold loopDone
  by_cases hsize : s.cnt.dsize.toNat = 0
  · simp [dataStart, hsize]
  · simp [dataStart, hsize]

/-- R170: after the start the read loop of the form that `DSIZE` selects is next. -/
theorem select_dataStart (hphase : s.phase = .data) (hnine : s.step = 9) :
    select (dataStart s) = .perform (if s.cnt.dsize.toNat = 0 then .rdbufUnknown else .rdbufKnown) := by
  rw [select_of_data (s := dataStart s) hphase, selectData, loopDone_dataStart]
  by_cases hsize : s.cnt.dsize.toNat = 0 <;> simp [dataStart, hnine, hsize]

/-- R170, R172: in the data phase the start comes first. -/
theorem select_of_not_primed (hphase : s.phase = .data) (hnine : s.step = 9) (hprimed : s.primed = false) :
    select s = .dataStart := by
  simp [select_of_data hphase, selectData, hnine, hprimed]

end

/-- Settles O29: the start is `dataStart`, and its counters select the form of the loop. -/
theorem dataStartInitialisesTheLoop : Obligations.DataStartInitialisesTheLoop := by
  intro s hrst hphase hnine hprimed
  exact ⟨dataStart s, step_of_dataStart hrst (select_of_not_primed hphase hnine hprimed), rfl,
    select_dataStart hphase hnine⟩

/-! ### A buffer taken -/

section
variable {s : State}

theorem ofNat_toNat_word (w : Word) : BitVec.ofNat 32 w.toNat = w := by
  rw [BitVec.ofNat_toNat, BitVec.setWidth_eq]

/-- The state after a known-size iteration over bytes that the host has delivered. -/
theorem execRdbufKnown_delivered (he : s.eosf = false) (hle : knownRequest s ≤ s.ports.inBytes.length)
    (h0 : s.fmt.ba.toNat ≠ 0) (hba : s.fmt.ba.toNat = s.bps.toNat * s.fmt.nch.toNat) :
    execRdbufKnown s = .next (spendRem (knownRequest s) (bufferTaken (s.ports.inBytes.take (knownRequest s))
      (noteRead (knownRequest s) (knownRequest s) (afterRead (knownRequest s) s)))) := by
  have hlen : (s.ports.inBytes.take (knownRequest s)).length = knownRequest s := List.length_take_of_le hle
  rw [execRdbufKnown_full h0 hba (streamRead_full he hle) hlen, hlen]

/-- A byte of the front of a list. -/
theorem byteAt_take {bs : List Byte} {n a : Nat} (ha : a < n) : byteAt (bs.take n) a = byteAt bs a := by
  simp [byteAt, List.getD_eq_getElem?_getD, ha]

end

/-- Settles O30: the delivered request is a full read, and a read of `BUF` after the load is one of the buffer or
of what was there. -/
theorem knownSizeIterationTakesABuffer : Obligations.KnownSizeIterationTakesABuffer := by
  intro s q he hq hle h0 hba _
  obtain rfl : q = knownRequest s := hq
  have hlen : (s.ports.inBytes.take (knownRequest s)).length = knownRequest s := List.length_take_of_le hle
  refine ⟨_, execRdbufKnown_delivered he hle h0 hba, ?state, fun a ha => ?inside, fun a ha => ?outside⟩
  case state =>
    simp only [bufferTaken, hlen]
    rfl
  case inside =>
    refine (Memory.read_load _ _ _).trans ?_
    rw [if_pos (by omega), byteAt_take ha]
  case outside =>
    refine (Memory.read_load _ _ _).trans ?_
    rw [if_neg (by omega)]
    rfl

/-- Settles O32: a full read, or the last one. -/
theorem unknownSizeIterationTakesABuffer : Obligations.UnknownSizeIterationTakesABuffer := by
  rintro s u r he h0 hba hblocks (⟨hle, rfl, rfl⟩ | ⟨hlt, hend, rfl, rfl⟩)
  · have hlen : (s.ports.inBytes.take s.bufsz.toNat).length = s.bufsz.toNat := List.length_take_of_le hle
    refine ⟨_, execRdbufUnknown_full h0 hba (streamRead_full he hle) hlen, ?_, fun a ha => ?_, fun a ha => ?_⟩
    · simp only [bufferTaken, noteRead, ofNat_toNat_word]
      rfl
    · exact (Memory.read_load _ _ _).trans (if_pos ha)
    · exact (Memory.read_load _ _ _).trans (if_neg (by omega))
  · refine ⟨_, execRdbufUnknown_last h0 hba (streamRead_ended he hlt hend) hlt hblocks, ?_, fun a ha => ?_,
      fun a ha => ?_⟩
    · simp only [bufferTaken, noteRead, noteLast, ofNat_toNat_word]
      rfl
    · exact (Memory.read_load _ _ _).trans (if_pos ha)
    · exact (Memory.read_load _ _ _).trans (if_neg (by omega))

/-- Settles O31: each form's short read, as its raise. -/
theorem shortDataReadsRaiseTheirErrors : Obligations.ShortDataReadsRaiseTheirErrors := by
  intro s q he hend
  refine ⟨?known, fun h0 hlt hragged => ?unknown⟩
  case known =>
    rintro rfl hlt
    have hexec := execRdbufKnown_short (streamRead_ended he hlt hend) hlt
    rw [raiseErr_eq_raisedState (by decide)] at hexec
    exact hexec
  case unknown =>
    have hexec := execRdbufUnknown_ragged h0 (streamRead_ended he hlt hend) hlt hragged
    rw [raiseErr_eq_raisedState (by decide)] at hexec
    simp only [noteRead, noteLast, ofNat_toNat_word] at hexec
    exact hexec

/-! ### Where an operation stops -/

section
variable {s : State}

/-- R14, R31: the two ways in which an operation over samples stops. -/
theorem exec_accSamples_stops {op : AccOp} (hop : op ≠ .blkAll) :
    (s.fmt.ba.toNat = 0 → exec op.instr s = .fault .zeroBlockAlign) ∧
    (s.fmt.ba.toNat ≠ 0 → s.fmt.ba.toNat = s.bps.toNat * s.fmt.nch.toNat →
      s.bufsz.toNat < s.cnt.got.toNat / s.fmt.ba.toNat * s.fmt.ba.toNat →
      exec op.instr s = .fault .bufferOverrun) := by
  refine ⟨fun h0 => ?_, fun h0 hba hout => ?_⟩
  · rw [exec_accSamples hop, if_pos h0]
  · have hnot : ¬ samplesInside (geometryOf s) s.bufsz.toNat = true := fun hin =>
      absurd ((samplesInside_iff h0 hba).mp hin) (by omega)
    rw [exec_accSamples hop, if_neg h0, if_neg hnot]

/-- The mode latch selects `ACC.BLK.ALL` in the one mode with neither bit of R203 set. -/
theorem accOpOf_ne_blkAll {m : Mode} (h : m.report = true ∨ m.gran = true ∨ m.filt = true) :
    accOpOf m ≠ .blkAll := by
  cases hr : m.report
  · cases hg : m.gran
    · rw [accOpOf_of_block hr hg]
      simp_all
    · rw [accOpOf_of_channel hr hg]
      split <;> decide
  · rw [accOpOf_of_report hr]
    decide

/-- A buffer in a format without a block cannot be accumulated over samples. -/
theorem takeBuffer_fault {r : List Byte} (h0 : s.fmt.ba.toNat = 0)
    (hmode : s.mode.report = true ∨ s.mode.gran = true ∨ s.mode.filt = true) :
    takeBuffer r s = .fault .zeroBlockAlign := by
  have hstop : accumulate { s with buf := Memory.load s.buf r } = .fault .zeroBlockAlign := by
    rw [accumulate_eq_exec]
    exact (exec_accSamples_stops (accOpOf_ne_blkAll hmode)).1 h0
  unfold takeBuffer
  rw [hstop]

/-- Step 8 has no quotient where `BA = 0` and `DSIZE` is not 0. -/
theorem exec_h8_fault (he : s.eosf = false) (h0 : s.fmt.ba.toNat = 0) (hle : 4 ≤ s.ports.inBytes.length)
    (hsize : (le32 (s.ports.inBytes.take 4) 0).toNat ≠ 0) : exec .h8 s = .fault .zeroBlockAlign := by
  have hexec := readHdr_full (k := 8) (use := fun b s' =>
    checkDataSize { s' with cnt := { s'.cnt with dsize := le32 b 0 } }) he hle
  refine hexec.trans ?_
  simp [checkDataSize, hsize, afterRead, h0]

theorem exec_rdbufUnknown_fault (he : s.eosf = false) (h0 : s.fmt.ba.toNat = 0) (hend : s.ports.inEnd = true)
    (hlt : s.ports.inBytes.length < s.bufsz.toNat) : exec .rdbufUnknown s = .fault .zeroBlockAlign := by
  change execRdbufUnknown s = _
  simp [execRdbufUnknown, streamRead_ended he hlt hend, hlt, h0]

theorem exec_rdbufKnown_fault (he : s.eosf = false) (h0 : s.fmt.ba.toNat = 0)
    (hle : knownRequest s ≤ s.ports.inBytes.length)
    (hmode : s.mode.report = true ∨ s.mode.gran = true ∨ s.mode.filt = true) :
    exec .rdbufKnown s = .fault .zeroBlockAlign := by
  have hlen : ¬ (s.ports.inBytes.take (knownRequest s)).length < knownRequest s := by
    rw [List.length_take_of_le hle]
    exact Nat.lt_irrefl _
  have hstop := takeBuffer_fault (r := s.ports.inBytes.take (knownRequest s))
    (s := noteRead (knownRequest s) (s.ports.inBytes.take (knownRequest s)).length
      (afterRead (knownRequest s) s)) h0 hmode
  change execRdbufKnown s = _
  unfold execRdbufKnown
  simp only [streamRead_full he hle, hlen, if_false, hstop]

end

/-- Settles O35, operation by operation. -/
theorem operationsStopOutsideTheGeometry : Obligations.OperationsStopOutsideTheGeometry := by
  intro s
  refine ⟨fun hout => if_neg (by omega), fun i hi => ?samples, fun he h0 =>
    ⟨exec_h8_fault he h0, exec_rdbufUnknown_fault he h0, exec_rdbufKnown_fault he h0⟩⟩
  case samples =>
    simp only [List.mem_cons, List.mem_nil_iff, or_false] at hi
    rcases hi with rfl | rfl | rfl | rfl
    · exact exec_accSamples_stops (op := .blkNn) (by decide)
    · exact exec_accSamples_stops (op := .chAll) (by decide)
    · exact exec_accSamples_stops (op := .chNn) (by decide)
    · exact exec_accSamples_stops (op := .rpt) (by decide)

end Sys2Proof.Machine

/-! The header step by step (R140 to R151): a read that blocks, is short or is full; the tag steps over their bytes
and over others; the descriptor and the data size. -/

namespace Sys2Proof.Machine

section
variable {s : State}

/-! ### The read of a header step -/

section
variable {k n : Nat} {use : List Byte → State → Host.Outcome State Fault Refusal}

/-- R63: the read blocks. -/
theorem readHdr_blocked (he : s.eosf = false) (hlt : s.ports.inBytes.length < n) (hend : s.ports.inEnd = false) :
    readHdr k n s use = .next s := by
  unfold readHdr
  simp only [streamRead_none.mpr ⟨he, hlt, hend⟩]

/-- R151: the read meets the end. -/
theorem readHdr_ended (he : s.eosf = false) (hlt : s.ports.inBytes.length < n) (hend : s.ports.inEnd = true) :
    readHdr k n s use = .next (raisedState (afterEnd s) 8 k n s.ports.inBytes.length) := by
  have hraise := raiseErr_eq_raisedState (k := .truncatedStream) (by decide) k 0 n s.ports.inBytes.length
    (afterEnd s)
  unfold readHdr
  simp only [streamRead_ended he hlt hend, hlt, if_true, hraise]
  rfl

/-- R62, R151: the end was seen before the read. -/
theorem readHdr_seen (he : s.eosf = true) (hn : 0 < n) :
    readHdr k n s use = .next (raisedState s 8 k n 0) := by
  have hraise := raiseErr_eq_raisedState (k := .truncatedStream) (by decide) k 0 n 0 s
  unfold readHdr
  simp only [streamRead, he, if_true, List.length_nil, hn, hraise]
  rfl

end

/-- The header steps of four bytes, each with its number, are header reads (R140). -/
theorem exec_eq_readHdr (s : State) {p : Instr × Nat}
    (hp : p ∈ [(Instr.h1, 1), (.h2, 2), (.h3, 3), (.h4, 4), (.h5, 5), (.h7, 7), (.h8, 8)]) :
    ∃ use, exec p.1 s = readHdr p.2 4 s use := by
  simp only [List.mem_cons, List.mem_nil_iff, or_false] at hp
  rcases hp with rfl | rfl | rfl | rfl | rfl | rfl | rfl <;> exact ⟨_, rfl⟩

/-- Step 6 is the header read of 16 bytes (R146). -/
theorem exec_h6_eq_readHdr (s : State) :
    exec .h6 s = readHdr 6 16 s fun f s' => .next (checkFormat { s' with fmt := descriptorOf f }) := rfl

end

/-- Settles O22 with `readHdr_ended`. -/
theorem shortHeaderReadIsTruncatedStream : Obligations.ShortHeaderReadIsTruncatedStream := by
  intro s he hend
  refine ⟨fun hlt p hp => ?_, fun hlt => ?_⟩
  · obtain ⟨use, huse⟩ := exec_eq_readHdr s hp
    rw [huse, readHdr_ended he hlt hend]
  · rw [exec_h6_eq_readHdr, readHdr_ended he hlt hend]

/-- Settles O23: every reading operation asks the stream first. -/
theorem readsBlockUntilBytesOrEnd : Obligations.ReadsBlockUntilBytesOrEnd := by
  intro s he hend
  refine ⟨fun hlt i hi => ?_, fun hlt => ?_, fun hlt => ?_, fun hlt => ?_⟩
  · have hp : ∃ n, (i, n) ∈ [(Instr.h1, 1), (.h2, 2), (.h3, 3), (.h4, 4), (.h5, 5), (.h7, 7), (.h8, 8)] := by
      simp only [List.mem_cons, List.mem_nil_iff, or_false] at hi
      rcases hi with rfl | rfl | rfl | rfl | rfl | rfl | rfl <;> simp
    obtain ⟨n, hp⟩ := hp
    obtain ⟨use, huse⟩ := exec_eq_readHdr s hp
    rw [huse, readHdr_blocked he hlt hend]
  · rw [exec_h6_eq_readHdr, readHdr_blocked he hlt hend]
  · exact execRdbufKnown_blocked (streamRead_none.mpr ⟨he, hlt, hend⟩)
  · exact execRdbufUnknown_blocked (streamRead_none.mpr ⟨he, hlt, hend⟩)

section
variable {s : State}

/-- A read after the end was seen obtains nothing (R62). -/
theorem streamRead_seen (n : Nat) (he : s.eosf = true) : streamRead n s = some ([], s) := by
  simp [streamRead, he]

/-- An accumulation of no bytes changes nothing, in any format with a block. -/
theorem exec_acc_nothing (op : AccOp) (h0 : s.fmt.ba.toNat ≠ 0) (hgot : s.cnt.got = 0#32) :
    exec op.instr s = .next s := by
  have hzero : s.cnt.got.toNat = 0 := by rw [hgot]; rfl
  by_cases hop : op = .blkAll
  · subst hop
    have hacc : AccOp.blkAll.acc s (Memory.read s.buf) 0 = s.acc := feed_nil _ _ _
    rw [show AccOp.blkAll.instr = .accBlkAll from rfl, exec_accBlkAll_inside (by omega), hzero, hacc]
    rfl
  · have hin : samplesInside (geometryOf s) s.bufsz.toNat = true := by
      simp [samplesInside, geometryOf, hzero]
    have hacc : op.acc s (Memory.read s.buf) 0 = s.acc := by
      rw [acc_eq_overSamples_of_ne hop, Nat.zero_div]
      rfl
    rw [exec_accSamples hop, if_neg h0, if_pos hin, hzero, hacc]
    rfl

/-- A buffer of no bytes changes nothing. -/
theorem takeBuffer_nil (h0 : s.fmt.ba.toNat ≠ 0) (hgot : s.cnt.got = 0#32) : takeBuffer [] s = .next s := by
  have hload : Memory.load s.buf [] = s.buf := by simp [Memory.load, Memory.cells]
  unfold takeBuffer
  rw [hload, accumulate_eq_exec, exec_acc_nothing _ h0 hgot]
  simp

/-- R174: an unknown-size iteration after the end was seen is the last, and takes nothing. -/
theorem execRdbufUnknown_seen (he : s.eosf = true) (hpos : 0 < s.bufsz.toNat) (h0 : s.fmt.ba.toNat ≠ 0) :
    execRdbufUnknown s = .next (noteLast (noteRead s.bufsz.toNat 0 s)) := by
  have hempty := takeBuffer_nil (s := noteLast (noteRead s.bufsz.toNat 0 s)) h0 rfl
  unfold execRdbufUnknown
  simp only [streamRead_seen _ he, List.length_nil, hpos, if_true, h0, if_false, Nat.zero_mod, ne_eq,
    not_true_eq_false, hempty]

end

/-- Settles O24: a short header read, a short data read, and a last buffer, each of no bytes. -/
theorem afterTheEndReadsObtainNothing : Obligations.AfterTheEndReadsObtainNothing := by
  intro s he
  refine ⟨fun p hp => ?_, ?_, fun q hq hpos => ?known, fun hpos h0 => ?unknown⟩
  · obtain ⟨use, huse⟩ := exec_eq_readHdr s hp
    rw [huse, readHdr_seen he (by decide)]
  · rw [exec_h6_eq_readHdr, readHdr_seen he (by decide)]
  case known =>
    obtain rfl : q = knownRequest s := hq
    have hexec := execRdbufKnown_short (streamRead_seen _ he) hpos
    rw [raiseErr_eq_raisedState (by decide)] at hexec
    exact hexec
  case unknown =>
    have hexec := execRdbufUnknown_seen he hpos h0
    rw [noteRead, ofNat_toNat_word] at hexec
    exact hexec

/-! ### The tag steps -/

section
variable {s : State} {k : Nat} {next : Fin 10} {e : Word} {kind : ErrKind}

/-- R141: the four bytes are the constant. -/
theorem constStep_hit {b : List Byte} (he : s.eosf = false) (hb : s.ports.inBytes.take 4 = b)
    (hlen : b.length = 4) (hval : le32 b 0 = e) :
    constStep k next e kind s = .next { afterRead 4 s with step := next } := by
  have hle : 4 ≤ s.ports.inBytes.length := by
    rw [← hb, List.length_take] at hlen
    omega
  unfold constStep
  rw [readHdr_full he hle, hb]
  exact if_pos hval

/-- R141: the four bytes are not the constant. -/
theorem constStep_miss {b0 b1 b2 b3 : Byte} {rest : List Byte} (he : s.eosf = false)
    (hb : s.ports.inBytes = b0 :: b1 :: b2 :: b3 :: rest) (hkind : kind ≠ .invalidCommand)
    (hval : le32 [b0, b1, b2, b3] 0 ≠ e) :
    constStep k next e kind s = .next (raisedState (afterRead 4 s) (errCode kind) k e.toNat
      (b0.toNat + 256 * b1.toNat + 65536 * b2.toNat + 16777216 * b3.toNat)) := by
  have hle : 4 ≤ s.ports.inBytes.length := by simp [hb]
  have htake : s.ports.inBytes.take 4 = [b0, b1, b2, b3] := by simp [hb]
  have hfound : (le32 [b0, b1, b2, b3] 0).toNat =
      b0.toNat + 256 * b1.toNat + 65536 * b2.toNat + 16777216 * b3.toNat := le32_toNat _ _
  unfold constStep
  rw [readHdr_full he hle, htake]
  refine (if_neg hval).trans ?_
  rw [raiseErr_eq_raisedState hkind, hfound]
  rfl

/-- R15: the four bytes of a `u32` are determined by its value. -/
theorem le32_injective {a0 a1 a2 a3 b0 b1 b2 b3 : Byte}
    (h : le32 [a0, a1, a2, a3] 0 = le32 [b0, b1, b2, b3] 0) : [a0, a1, a2, a3] = [b0, b1, b2, b3] := by
  have hval := congrArg BitVec.toNat h
  have hexpand (c0 c1 c2 c3 : Byte) : (le32 [c0, c1, c2, c3] 0).toNat =
      c0.toNat + 256 * c1.toNat + 65536 * c2.toNat + 16777216 * c3.toNat := le32_toNat _ _
  rw [hexpand, hexpand] at hval
  have ha0 := a0.isLt
  have ha1 := a1.isLt
  have ha2 := a2.isLt
  have hb0 := b0.isLt
  have hb1 := b1.isLt
  have hb2 := b2.isLt
  have h0 : a0 = b0 := BitVec.eq_of_toNat_eq (by omega)
  have h1 : a1 = b1 := BitVec.eq_of_toNat_eq (by omega)
  have h2 : a2 = b2 := BitVec.eq_of_toNat_eq (by omega)
  have h3 : a3 = b3 := BitVec.eq_of_toNat_eq (by omega)
  rw [h0, h1, h2, h3]

end

/-- Settles O20: five tag steps over their bytes; step 2 goes on after any read. -/
theorem tagStepsGoOnOverTheirBytes : Obligations.TagStepsGoOnOverTheirBytes := by
  intro s he
  refine ⟨fun hb => constStep_hit he hb rfl rfl, fun hle => ?_, fun hb => constStep_hit he hb rfl rfl,
    fun hb => constStep_hit he hb rfl rfl, fun hb => constStep_hit he hb rfl rfl,
    fun hb => constStep_hit he hb rfl rfl⟩
  exact readHdr_full (k := 2) he hle

/-- Settles O21: other bytes have another value. -/
theorem tagStepsRejectOtherBytes : Obligations.TagStepsRejectOtherBytes := by
  intro s b0 b1 b2 b3 rest he hb found
  have hother {c0 c1 c2 c3 : Byte} (hne : [b0, b1, b2, b3] ≠ [c0, c1, c2, c3]) :
      le32 [b0, b1, b2, b3] 0 ≠ le32 [c0, c1, c2, c3] 0 := fun h => hne (le32_injective h)
  exact ⟨fun hne => constStep_miss he hb (by decide) (hother hne),
    fun hne => constStep_miss he hb (by decide) (hother hne),
    fun hne => constStep_miss he hb (by decide) (hother hne),
    fun hne => constStep_miss he hb (by decide) (hother hne),
    fun hne => constStep_miss he hb (by decide) (hother hne)⟩

/-! ### The descriptor -/

section
variable {s : State}

/-- R146: step 6 over 16 bytes writes the six registers, then checks them. -/
theorem exec_h6_full (he : s.eosf = false) (hle : 16 ≤ s.ports.inBytes.length) :
    exec .h6 s = .next (checkFormat { afterRead 16 s with fmt := descriptorOf (s.ports.inBytes.take 16) }) := by
  rw [exec_h6_eq_readHdr, readHdr_full he hle]

/-- R148: no selected channel is missing. -/
theorem missingChannels_eq_nil
    (h : s.mode.report = false → s.mode.gran = true →
      ∀ c, c < s.params.nacc → s.mode.sel.getLsbD c = true → c < s.fmt.nch.toNat) : missingChannels s = [] := by
  unfold missingChannels
  split
  · next hmode =>
    refine List.filter_eq_nil_iff.mpr fun c hc hbad => ?_
    simp only [Bool.and_eq_true, decide_eq_true_eq] at hbad
    have hlt := h hmode.1 hmode.2 c (by simpa using hc) hbad.1
    omega
  · rfl

/-- The first index below `n` that satisfies a test heads the filtered range. -/
theorem filter_range_eq_cons {p : Nat → Bool} {n c : Nat} (hc : c < n) (hp : p c = true)
    (hfirst : ∀ c', c' < c → p c' = false) : ∃ cs, (List.range n).filter p = c :: cs := by
  obtain ⟨m, rfl⟩ : ∃ m, n = c + (1 + m) := ⟨n - c - 1, by omega⟩
  have hbefore : (List.range c).filter p = [] :=
    List.filter_eq_nil_iff.mpr fun c' hc' => by simp [hfirst c' (by simpa using hc')]
  rw [List.range_add, List.filter_append, hbefore, List.nil_append, List.range_add, List.map_append,
    List.filter_append]
  have hfirst : (List.map (fun x => c + x) (List.range 1)).filter p = [c] := by simp [hp]
  rw [hfirst]
  exact ⟨_, rfl⟩

/-- R148: the lowest selected channel that the file lacks. -/
theorem missingChannels_eq_cons {c : Nat} (hreport : s.mode.report = false) (hgran : s.mode.gran = true)
    (hc : c < s.params.nacc) (hsel : s.mode.sel.getLsbD c = true) (hmissing : s.fmt.nch.toNat ≤ c)
    (hfirst : ∀ c', c' < c → s.mode.sel.getLsbD c' = true → c' < s.fmt.nch.toNat) :
    ∃ cs, missingChannels s = c :: cs := by
  unfold missingChannels
  rw [if_pos ⟨hreport, hgran⟩]
  refine filter_range_eq_cons hc (by simp [hsel, hmissing]) fun c' hc' => ?_
  cases hsel' : s.mode.sel.getLsbD c'
  · rfl
  · have hlt := hfirst c' hc' hsel'
    simp [hlt]

theorem checkFormat_of_valid (hcheck : descriptorCheck s.fmt = none) (hchannels : missingChannels s = []) :
    checkFormat s = deriveGeometry s := by
  unfold checkFormat
  simp only [hcheck, hchannels]

theorem checkFormat_of_missing {c : Nat} {cs : List Nat} (hcheck : descriptorCheck s.fmt = none)
    (hchannels : missingChannels s = c :: cs) :
    checkFormat s = raisedState s 11 6 (s.fmt.nch.toNat - 1) c := by
  unfold checkFormat
  simp only [hcheck, hchannels]
  exact raiseErr_eq_raisedState (by decide) _ _ _ _ _

theorem checkFormat_of_invalid {k : ErrKind} {sub e f : Nat} (hcheck : descriptorCheck s.fmt = some (k, sub, e, f)) :
    checkFormat s = raisedState s (errCode k) (6 + 256 * sub) e f := by
  unfold checkFormat
  simp only [hcheck]
  exact raiseErr_eq_raisedState (descriptorCheck_kind hcheck) _ _ _ _ _

end

/-- Settles O25: the descriptor passes the check, and no channel is missing. -/
theorem validDescriptorIsAccepted : Obligations.ValidDescriptorIsAccepted := by
  rintro s _ he hle rfl hnch hbits hwhole hba hbrate htag hchannels
  have hcheck : descriptorCheck (descriptorOf (s.ports.inBytes.take 16)) = none :=
    descriptorCheck_none.mpr ⟨by omega, by omega, hwhole, hba, hbrate, htag⟩
  rw [exec_h6_full he hle, checkFormat_of_valid hcheck (missingChannels_eq_nil hchannels)]
  rfl

/-- Settles O27: the descriptor passes the check, and the lowest missing channel is reported. -/
theorem missingChannelIsRejectedAtStepSix : Obligations.MissingChannelIsRejectedAtStepSix := by
  rintro s _ c he hle rfl hcheck hreport hgran hc hsel hmissing hfirst
  obtain ⟨cs, hchannels⟩ := missingChannels_eq_cons
    (s := { afterRead 16 s with fmt := descriptorOf (s.ports.inBytes.take 16) })
    hreport hgran hc hsel hmissing hfirst
  rw [exec_h6_full he hle, checkFormat_of_missing hcheck hchannels]

/-- A context value is stored reduced to its register (log 19). -/
theorem raisedState_mod (s : State) (code errStep e f : Nat) :
    raisedState s code errStep (e % 2 ^ 32) f = raisedState s code errStep e f := by
  unfold raisedState
  rw [ofNat_mod_word]

section
variable {f : Descriptor}

/-! The five tests of R147, each where those before it pass. -/

theorem descriptorCheck_channels (h1 : f.nch.toNat = 0) :
    descriptorCheck f = some (.inconsistentFormat, 1, 1, 0) := if_pos h1

theorem descriptorCheck_bits (h1 : f.nch.toNat ≠ 0) (h2 : f.bits.toNat = 0 ∨ f.bits.toNat % 8 ≠ 0) :
    descriptorCheck f = some (.inconsistentFormat, 2, 8, f.bits.toNat) := (if_neg h1).trans (if_pos h2)

variable (h1 : f.nch.toNat ≠ 0) (h2 : ¬ (f.bits.toNat = 0 ∨ f.bits.toNat % 8 ≠ 0))
include h1 h2

theorem descriptorCheck_align (h3 : f.ba.toNat ≠ f.bits.toNat / 8 * f.nch.toNat) :
    descriptorCheck f =
      some (.inconsistentFormat, 3, (f.bits.toNat / 8 * f.nch.toNat) % 2 ^ 32, f.ba.toNat) :=
  (if_neg h1).trans ((if_neg h2).trans (if_pos h3))

variable (h3 : f.ba.toNat = f.bits.toNat / 8 * f.nch.toNat)
include h3

theorem descriptorCheck_rate (h4 : f.brate.toNat ≠ f.rate.toNat * f.ba.toNat) :
    descriptorCheck f =
      some (.inconsistentFormat, 4, (f.rate.toNat * f.ba.toNat) % 2 ^ 32, f.brate.toNat) :=
  (if_neg h1).trans ((if_neg h2).trans ((if_neg (not_not.mpr h3)).trans (if_pos h4)))

theorem descriptorCheck_tag (h4 : f.brate.toNat = f.rate.toNat * f.ba.toNat) (h5 : f.tag ≠ Config.pcmTag) :
    descriptorCheck f = some (.notPcm, 0, 1, f.tag.toNat) :=
  (if_neg h1).trans ((if_neg h2).trans ((if_neg (not_not.mpr h3)).trans ((if_neg (not_not.mpr h4)).trans
    (if_pos h5))))

end

/-- Settles O26: the tests of R147 in their order. -/
theorem invalidDescriptorIsRejectedInOrder : Obligations.InvalidDescriptorIsRejectedInOrder := by
  rintro s _ _ he hle rfl rfl bps
  have hexec {k : ErrKind} {sub e f : Nat}
      (hcheck : descriptorCheck (descriptorOf (s.ports.inBytes.take 16)) = some (k, sub, e, f)) :
      exec .h6 s = .next (raisedState { afterRead 16 s with fmt := descriptorOf (s.ports.inBytes.take 16) }
        (errCode k) (6 + 256 * sub) e f) := by
    rw [exec_h6_full he hle, checkFormat_of_invalid hcheck]
  refine ⟨fun h1 => hexec (descriptorCheck_channels h1), fun h1 h2 => hexec (descriptorCheck_bits h1 h2),
    fun h1 h2 h3 h4 => ?_, fun h1 h2 h3 h4 h5 => ?_, fun h1 h2 h3 h4 h5 h6 => ?_⟩
  · rw [← raisedState_mod]
    exact hexec (descriptorCheck_align h1 (not_or.mpr ⟨h2, not_not.mpr h3⟩) h4)
  · exact hexec (descriptorCheck_rate h1 (not_or.mpr ⟨h2, not_not.mpr h3⟩) h4 h5)
  · exact hexec (descriptorCheck_tag h1 (not_or.mpr ⟨h2, not_not.mpr h3⟩) h4 h5 h6)

/-! ### The data size -/

/-- Step 8 over four bytes. -/
theorem exec_h8_full {s : State} (he : s.eosf = false) (hle : 4 ≤ s.ports.inBytes.length) :
    exec .h8 s = checkDataSize { afterRead 4 s with
      cnt := { s.cnt with dsize := le32 (s.ports.inBytes.take 4) 0 } } :=
  readHdr_full (k := 8) he hle

/-- Settles O28: the alignment test of step 8. -/
theorem dataSizeMustBeAligned : Obligations.DataSizeMustBeAligned := by
  rintro s _ _ he hle rfl rfl
  rw [exec_h8_full he hle]
  refine ⟨?enter, fun h0 hbad => ?reject⟩
  case enter =>
    rintro (hzero | ⟨h0, haligned⟩)
    · exact if_pos hzero
    · by_cases hzero : (le32 (s.ports.inBytes.take 4) 0).toNat = 0
      · exact if_pos hzero
      · exact (if_neg hzero).trans ((if_neg h0).trans (if_neg (not_not.mpr haligned)))
  case reject =>
    have hnonzero : (le32 (s.ports.inBytes.take 4) 0).toNat ≠ 0 := fun hzero =>
      hbad (by rw [hzero, Nat.zero_mod])
    refine (if_neg hnonzero).trans ((if_neg h0).trans ((if_pos hbad).trans ?_))
    rw [raiseErr_eq_raisedState (by decide)]
    rfl

end Sys2Proof.Machine

/-! The commands (R220 to R229) and the commit (R230 to R232), with the value of `STATUS` after each (R37). -/

namespace Sys2Proof.Machine

section
variable {s : State}

/-! ### `STATUS` outside `DONE` and `ERR` -/

/-- R37: a busy core shows `BUSY`, `TVALID` and the mode tag. -/
theorem status_toNat_of_busy (hbusy : s.phase.busy = true) :
    s.status.toNat = 1 + 8 * s.tvalid.toNat + 65536 * s.res.modeTag.toNat := by
  rw [status_toNat]
  unfold State.outcome
  cases hphase : s.phase with
  | idle | done | err => exact absurd hbusy (by rw [hphase]; decide)
  | tbuild | header | data =>
    change 1 + 2 * 0 + 4 * 0 + 8 * s.tvalid.toNat + 256 * (0 % 4) + 65536 * s.res.modeTag.toNat = _
    omega

/-- R37: a core in `IDLE` shows `TVALID` and the mode tag. -/
theorem status_toNat_of_idle (hphase : s.phase = .idle) :
    s.status.toNat = 8 * s.tvalid.toNat + 65536 * s.res.modeTag.toNat := by
  rw [status_toNat]
  unfold State.outcome
  rw [hphase]
  change 0 + 2 * 0 + 4 * 0 + 8 * s.tvalid.toNat + 256 * (0 % 4) + 65536 * s.res.modeTag.toNat = _
  omega

/-! ### `TBUILD` -/

/-- R223: an accepted `TBUILD` command. -/
theorem exec_tbuild_of_ready (hready : s.phase.ready = true) :
    exec .tbuild s = .next (if s.tvalid then { acceptClear s with phase := .idle }
      else { acceptClear s with phase := .tbuild, runPending := false }) := by
  refine (if_pos hready).trans ?_
  cases s.tvalid <;> rfl

end

/-- Settles O15, for both values of `TVALID`. -/
theorem tbuildCommandClearsAndBuilds : Obligations.TbuildCommandClearsAndBuilds := by
  intro s hready
  refine ⟨fun hvalid => ?_, fun hvalid => ?_⟩
  · refine ⟨{ acceptClear s with phase := .idle }, ?_, ?_, rfl⟩
    · rw [exec_tbuild_of_ready hready, if_pos hvalid]
    · refine BitVec.eq_of_toNat_eq ((status_toNat_of_idle rfl).trans ?_)
      simp [hvalid, Results.cleared]
  · refine ⟨{ acceptClear s with phase := .tbuild, runPending := false }, ?_, ?_, rfl⟩
    · rw [exec_tbuild_of_ready hready, hvalid, if_neg Bool.false_ne_true]
    · refine BitVec.eq_of_toNat_eq ((status_toNat_of_busy rfl).trans ?_)
      simp [hvalid, Results.cleared]

/-! ### The `RUN` commands -/

section
variable {s : State} (report filt gran : Bool) (chsel : Half)

/-- R224, R225: the accepted command without a refused channel starts the pass that the rules write out. -/
theorem startRun_latchRun_eq (s : State) :
    startRun (latchRun report filt gran chsel (acceptClear s)) = passStarted report filt gran chsel s := by
  cases hvalid : s.tvalid <;> cases htime : s.ports.timeIn <;>
    simp [startRun, latchRun, passStarted, timeAdvance, timeSample, acceptClear, hvalid, htime]

/-- R224: the command starts its pass where no requested channel is beyond the accumulator file. -/
theorem acceptRun_started (hready : s.phase.ready = true)
    (hnone : refusedChannels report gran chsel s.params.nacc = []) :
    acceptRun report filt gran chsel s = .next (passStarted report filt gran chsel s) := by
  have hparams : (latchRun report filt gran chsel (acceptClear s)).params = s.params := by simp [latchRun]
  unfold acceptRun checkSelectors
  rw [if_pos hready, hparams, hnone, ← startRun_latchRun_eq]

/-- R224, R262: the lowest channel beyond the accumulator file refuses the command. -/
theorem acceptRun_refused {c : Nat} {cs : List Nat} (hready : s.phase.ready = true)
    (hsome : refusedChannels report gran chsel s.params.nacc = c :: cs) :
    acceptRun report filt gran chsel s = .next (raisedState (latchRun report filt gran chsel (acceptClear s))
      11 0 (s.params.nacc - 1) c) := by
  have hparams : (latchRun report filt gran chsel (acceptClear s)).params = s.params := by simp [latchRun]
  unfold acceptRun checkSelectors
  rw [if_pos hready, hparams, hsome]
  exact congrArg Host.Outcome.next (raiseErr_eq_raisedState (by decide) _ _ _ _ _)

/-- A block or report command has no channel to refuse (R101). -/
theorem refusedChannels_of_unexamined {report gran : Bool} (h : ¬ (report = false ∧ gran = true)) (nacc : Nat) :
    refusedChannels report gran chsel nacc = [] := if_neg h

variable {chsel} in
/-- A per-channel command with every selector below `NACC` has no channel to refuse. -/
theorem refusedChannels_eq_nil {nacc : Nat} (h : ∀ c, nacc ≤ c → chsel.getLsbD c = false) :
    refusedChannels false true chsel nacc = [] := by
  refine List.filter_eq_nil_iff.mpr fun c _ hbad => ?_
  simp only [Bool.and_eq_true, decide_eq_true_eq] at hbad
  exact absurd hbad.2 (by simp [h c hbad.1])

variable {chsel} in
/-- The lowest selector at `NACC` or above is the first refused channel. -/
theorem refusedChannels_eq_cons {nacc c : Nat} (hc : nacc ≤ c) (hsel : chsel.getLsbD c = true)
    (hfirst : ∀ c', nacc ≤ c' → c' < c → chsel.getLsbD c' = false) :
    ∃ cs, refusedChannels false true chsel nacc = c :: cs := by
  have hlt : c < 16 := by
    by_contra hge
    rw [BitVec.getLsbD_of_ge _ _ (by omega)] at hsel
    exact absurd hsel (by decide)
  refine filter_range_eq_cons hlt (by simp [hc, hsel]) fun c' hc' => ?_
  by_cases hle : nacc ≤ c'
  · rw [hfirst c' hle hc', Bool.and_false]
  · rw [decide_eq_false hle, Bool.false_and]

/-- R37: `STATUS` at the start of a pass. -/
theorem passStarted_status_toNat (s : State) :
    (passStarted report filt gran chsel s).status.toNat =
      1 + 8 * s.tvalid.toNat + 65536 * (4 * report.toNat + 2 * filt.toNat + gran.toNat) := by
  have hbusy : (passStarted report filt gran chsel s).phase.busy = true := by
    change (if s.tvalid then Phase.header else Phase.tbuild).busy = true
    cases s.tvalid <;> rfl
  have htag : (passStarted report filt gran chsel s).res.modeTag = modeTagOf report filt gran := rfl
  have hvalid : (passStarted report filt gran chsel s).tvalid = s.tvalid := timeAdvance_tvalid s
  have hvalue : (modeTagOf report filt gran).toNat = 4 * report.toNat + 2 * filt.toNat + gran.toNat := by
    cases report <;> cases filt <;> cases gran <;> rfl
  rw [status_toNat_of_busy hbusy, hvalid, htag, hvalue]

end

/-- Settles O16: each command by its mode bits. -/
theorem runCommandsStartTheirPass : Obligations.RunCommandsStartTheirPass := by
  intro s chsel hready
  refine ⟨?_, ?_, fun filt gran => ?_, fun hbelow => ⟨?_, ?_⟩, fun report filt gran =>
    passStarted_status_toNat report filt gran chsel s⟩
  · exact acceptRun_started _ _ _ _ hready (refusedChannels_of_unexamined _ (by decide) _)
  · exact acceptRun_started _ _ _ _ hready (refusedChannels_of_unexamined _ (by decide) _)
  · exact acceptRun_started _ _ _ _ hready (refusedChannels_of_unexamined _ (by simp) _)
  · exact acceptRun_started _ _ _ _ hready (refusedChannels_eq_nil hbelow)
  · exact acceptRun_started _ _ _ _ hready (refusedChannels_eq_nil hbelow)

/-- What a refused command latches is what a started pass latches, but for the place it goes to (R224). -/
theorem raisedState_latchRun_eq (report filt gran : Bool) (chsel : Half) (s : State) (e f : Nat) :
    raisedState (latchRun report filt gran chsel (acceptClear s)) 11 0 e f =
      { raisedState (passStarted report filt gran chsel s) 11 0 e f with
        step := s.step, runPending := s.runPending } := by
  rw [← startRun_latchRun_eq]
  simp [raisedState, latchRun]

/-- Settles O17: the raise of the lowest refused channel. -/
theorem selectorBeyondTheFileIsRefused : Obligations.SelectorBeyondTheFileIsRefused := by
  intro s chsel c hready hc hsel hfirst filt
  obtain ⟨cs, hrefused⟩ := refusedChannels_eq_cons hc hsel hfirst
  have hexec : exec (if filt then .runChNn chsel else .runChAll chsel) s = acceptRun false filt true chsel s := by
    cases filt <;> rfl
  refine ⟨_, ?_, raisedState_latchRun_eq false filt true chsel s _ _⟩
  rw [hexec, acceptRun_refused _ _ _ _ hready hrefused]

/-! ### Commands in any phase -/

/-- R221: the acceptance tests the phase first. -/
theorem acceptRun_of_busy {s : State} (hbusy : s.phase.busy = true) (report filt gran : Bool) (chsel : Half) :
    acceptRun report filt gran chsel s = .next s := if_neg (not_ready_of_busy hbusy)

/-- Settles O18, command by command. -/
theorem commandsWaitWhileBusy : Obligations.CommandsWaitWhileBusy := by
  intro s i hformat hbusy
  cases i with
  | tbuild => exact if_neg (not_ready_of_busy hbusy)
  | runBlkAll chsel => exact acceptRun_of_busy hbusy _ _ _ _
  | runChAll chsel => exact acceptRun_of_busy hbusy _ _ _ _
  | runBlkNn chsel => exact acceptRun_of_busy hbusy _ _ _ _
  | runChNn chsel => exact acceptRun_of_busy hbusy _ _ _ _
  | runRpt filt gran chsel => exact acceptRun_of_busy hbusy _ _ _ _
  | _ => exact absurd hformat Format.noConfusion

/-- A decoded command is well formed: no operand of a command is restricted. -/
theorem wellFormed_of_decodeCmd {w : Word} {i : Instr} (h : decodeCmd w = .ok i) : i.wellFormed = true := by
  rcases decodeCmd_ok h with rfl | rfl
  · rfl
  · unfold decodeRun
    split_ifs <;> rfl

/-- Settles O43: the command port selects the decoded command. -/
theorem stepPerformsTheDecodedCommand : Obligations.StepPerformsTheDecodedCommand := by
  intro s w i hrst hready hcmd hdecode
  have hsel : select s = .perform i := by
    rw [select_of_ready hready, selectCommand, hcmd]
    dsimp only
    rw [hdecode]
  exact ⟨wellFormed_of_decodeCmd hdecode, step_of_perform hrst hsel⟩

/-! ### The commit -/

section
variable {s : State}

/-- One set bit at the top of a number. -/
theorem testBit_two_pow_add {x n : Nat} (hx : x < 2 ^ n) (i : Nat) :
    (x + 2 ^ n).testBit i = (decide (i = n) || x.testBit i) := by
  have hor : 2 ^ n + x = 2 ^ n ||| x := by simpa using Nat.two_pow_add_eq_or_of_lt hx 1
  rw [Nat.add_comm, hor, Nat.testBit_or, Nat.testBit_two_pow, decide_eq_decide.mpr eq_comm]

/-- The sum of the powers of the indices below `n` that pass a test has the bits of the test. -/
theorem sum_filter_pow (p : Nat → Bool) (n : Nat) :
    (((List.range n).filter p).map fun i => 2 ^ i).sum < 2 ^ n ∧
      ∀ i, ((((List.range n).filter p).map fun i => 2 ^ i).sum).testBit i = (decide (i < n) && p i) := by
  induction n with
  | zero => simp
  | succ n ih =>
    obtain ⟨hlt, hbits⟩ := ih
    rw [List.range_succ, List.filter_append, List.map_append, List.sum_append]
    have hpow : 2 ^ (n + 1) = 2 ^ n + 2 ^ n := by rw [Nat.pow_succ, Nat.mul_two]
    have hsplit (i : Nat) : decide (i < n + 1) = (decide (i = n) || decide (i < n)) := by
      rw [← Bool.decide_or]
      exact decide_eq_decide.mpr (by omega)
    cases hp : p n with
    | true =>
      have hlast : (([n].filter p).map fun i => 2 ^ i).sum = 2 ^ n := by simp [hp]
      rw [hlast]
      refine ⟨by omega, fun i => ?_⟩
      rw [testBit_two_pow_add hlt, hbits, hsplit]
      by_cases hi : i = n
      · simp [hi, hp]
      · simp [hi]
    | false =>
      have hlast : (([n].filter p).map fun i => 2 ^ i).sum = 0 := by simp [hp]
      rw [hlast, Nat.add_zero]
      refine ⟨by omega, fun i => ?_⟩
      rw [hbits, hsplit]
      by_cases hi : i = n
      · simp [hi, hp]
      · simp [hi]

/-- R230: `VALID` of a per-channel pass has the bits of the selected channels. -/
theorem getLsbD_validWord_selected {nacc : Nat} (hn : nacc ≤ 16) (sel : Half) (i : Nat) :
    (validWord (selectedChannels nacc sel)).getLsbD i = (decide (i < nacc) && sel.getLsbD i) := by
  unfold validWord selectedChannels
  rw [BitVec.getLsbD_ofNat, (sum_filter_pow _ _).2]
  by_cases hi : i < nacc
  · have h32 : i < 32 := by omega
    simp [h32]
  · simp [hi]

/-- R201, R231: the active accumulators of a pass without a report. -/
theorem mem_activeSet_plain {nacc : Nat} {m : Mode} (hreport : m.report = false) (i : Nat) :
    i ∈ activeSet nacc m ↔ if m.gran then i < nacc ∧ m.sel.getLsbD i = true else i = 0 := by
  cases hg : m.gran <;> simp [activeSet, selectedChannels, hreport, hg]

/-- R42, R230: `VALID` of a pass without a report. -/
theorem getLsbD_validWord_plain {nacc : Nat} {m : Mode} (hreport : m.report = false) (hn : nacc ≤ 16) (i : Nat) :
    (validWord (activeSet nacc m)).getLsbD i =
      if m.gran then decide (i < nacc) && m.sel.getLsbD i else decide (i = 0) := by
  cases hg : m.gran
  · have hset : activeSet nacc m = [0] := by simp [activeSet, hreport, hg]
    rw [hset]
    exact BitVec.getLsbD_one
  · have hset : activeSet nacc m = selectedChannels nacc m.sel := by simp [activeSet, hreport, hg]
    rw [hset]
    exact getLsbD_validWord_selected hn m.sel i

/-- R230: the committed registers, one by one. -/
theorem committedCrc_getD {nacc i : Nat} (a : List Nat) (acc : List Word) (hi : i < nacc) :
    (committedCrc nacc a acc).getD i 0#32 = if i ∈ a then acc.getD i 0#32 ^^^ 0xFFFFFFFF#32 else 0#32 := by
  simp [committedCrc, hi, crcFin, Config.xorOut]

theorem committedCrc_length (nacc : Nat) (a : List Nat) (acc : List Word) :
    (committedCrc nacc a acc).length = nacc := by simp [committedCrc]

/-- R37: `STATUS` in `DONE` over a valid table. -/
theorem status_of_done (hphase : s.phase = .done) (hvalid : s.tvalid = true) :
    s.status = 0x0000010A#32 ||| s.res.modeTag.setWidth 32 <<< 16 := by
  have houtcome : s.outcome = 1 := by unfold State.outcome; rw [hphase]
  have hfields : ∀ tag : BitVec 3, (0x0000010A#32 ||| tag.setWidth 32 <<< 16).toNat = 266 + 65536 * tag.toNat := by
    decide
  refine BitVec.eq_of_toNat_eq ?_
  rw [hfields, status_toNat, hphase, hvalid, houtcome]
  rfl

end

/-- Settles O40: the plain commit, register by register. -/
theorem commitPublishesTheActiveAccumulators : Obligations.CommitPublishesTheActiveAccumulators := by
  intro s hreport
  have hexec : exec .commit s = .next (commitPlain s) := by
    change execCommit s = _
    simp [execCommit, hreport]
  refine ⟨commitPlain s, hexec, rfl, committedCrc_length .., fun hvalid => status_of_done rfl hvalid,
    fun hpos hn i hi => ?_, fun i hi hn => ⟨?_, ?_⟩⟩
  · refine (getLsbD_validWord_plain hreport hn i).trans ?_
    cases s.mode.gran <;> simp <;> omega
  · refine (getLsbD_validWord_plain hreport hn i).trans ?_
    simp [hi]
  · refine (committedCrc_getD _ _ hi).trans ?_
    simp only [mem_activeSet_plain hreport, hi, true_and]
    cases s.mode.gran <;> simp

/-- R230, R232: the commit of a report pass, with the time sample written out. -/
theorem reportExtras_commitPlain_eq (s : State) :
    reportExtras (commitPlain s) = { timeAdvance s with
      phase := .done
      res := { (commitPlain s).res with
        fmtTag := s.fmt.tag.setWidth 32, fmtNch := s.fmt.nch.setWidth 32
        fmtRate := s.fmt.rate, fmtByteRate := s.fmt.brate
        fmtAlign := s.fmt.ba.setWidth 32, fmtBits := s.fmt.bits.setWidth 32
        totalLo := s.cnt.tot.setWidth 32, totalHi := s.cnt.tot.extractLsb' 32 32
        elapsedMs := timeSample s - s.t0 } } := by
  cases htime : s.ports.timeIn <;> simp [reportExtras, timeAdvance, timeSample, commitPlain, htime]

/-- Settles O41: the commit with the extras, register by register. -/
theorem reportCommitPublishesTheExtras : Obligations.ReportCommitPublishesTheExtras := by
  intro s hreport hn
  have hset : activeSet s.params.nacc s.mode = [0, 1, 2] := if_pos hreport
  have hexec : exec .commit s = .next (reportExtras (commitPlain s)) := by
    change execCommit s = _
    simp [execCommit, hreport]
  have hvalid : validWord (activeSet s.params.nacc s.mode) = 7#32 := by rw [hset]; rfl
  have hlow : s.cnt.tot.extractLsb' 0 32 = s.cnt.tot.setWidth 32 :=
    (BitVec.setWidth_eq_extractLsb' (by decide)).symm
  rw [reportExtras_commitPlain_eq] at hexec
  refine ⟨_, hexec, ?state, committedCrc_length .., fun htable => ?status, fun i hi => ?crc⟩
  case state => simp only [commitPlain_res, hvalid, hlow]
  case status => exact status_of_done rfl ((timeAdvance_tvalid s).trans htable)
  case crc =>
    refine (committedCrc_getD _ _ hi).trans ?_
    have hmem : i ∈ activeSet s.params.nacc s.mode ↔ i < 3 := by
      rw [hset]
      simp only [List.mem_cons, List.mem_nil_iff, or_false]
      omega
    simp only [hmem]

end Sys2Proof.Machine

/-! The sequencer and the ports (R24, R36, R220, R236, R290): what a busy phase performs, the outputs, the result
registers at their addresses, and the moves of the host. -/

namespace Sys2Proof.Machine

/-! ### The sequenced operations -/

section
variable {s : State}

/-- The selection in the data phase after the start (R170, R175). -/
theorem select_of_primed (hphase : s.phase = .data) (hnine : s.step = 9) (hprimed : s.primed = true) :
    select s = if loopDone s then .perform .commit
      else if s.cnt.dsize.toNat = 0 then .perform .rdbufUnknown else .perform .rdbufKnown := by
  simp [select_of_data hphase, selectData, hnine, hprimed]

/-- The end of the loop with a known size (R175). -/
theorem loopDone_known (hsize : s.cnt.dsize.toNat ≠ 0) : loopDone s = (s.cnt.rem.toNat == 0) := if_neg hsize

/-- The end of the loop with an unknown size (R175). -/
theorem loopDone_unknown (hsize : s.cnt.dsize.toNat = 0) : loopDone s = s.cnt.last := if_pos hsize

/-- R140: the operation of a step number. -/
theorem selectHeader_of_mem {p : Fin 10 × Instr}
    (hp : p ∈ [((1 : Fin 10), Instr.h1), (2, .h2), (3, .h3), (4, .h4), (5, .h5), (6, .h6), (7, .h7), (8, .h8)])
    (hstep : s.step = p.1) : selectHeader s = .perform p.2 := by
  unfold selectHeader
  rw [hstep]
  simp only [List.mem_cons, List.mem_nil_iff, or_false] at hp
  rcases hp with rfl | rfl | rfl | rfl | rfl | rfl | rfl | rfl <;> rfl

end

/-- Settles O44: the selection in each busy phase. -/
theorem stepPerformsTheSequencedOperation : Obligations.StepPerformsTheSequencedOperation := by
  intro s hrst
  refine ⟨fun hphase hvalid => ?build, fun hphase hvalid => ?buildDone, fun hphase p hp hstep => ?header,
    fun hphase hnine hprimed => ⟨fun hsize hrem => ?_, fun hsize hrem => ?_, fun hsize hlast => ?_,
      fun hsize hlast => ?_⟩⟩
  case build =>
    refine step_of_perform hrst ((select_of_tbuild hphase).trans ?_)
    rw [hvalid, if_neg Bool.false_ne_true]
  case buildDone =>
    refine step_of_buildDone hrst ((select_of_tbuild hphase).trans ?_)
    rw [hvalid, if_pos rfl]
  case header => exact step_of_perform hrst ((select_of_header hphase).trans (selectHeader_of_mem hp hstep))
  all_goals
    refine step_of_perform hrst ((select_of_primed hphase hnine hprimed).trans ?_)
  · rw [loopDone_known (by omega), if_neg (by simpa using by omega), if_neg (by omega)]
  · rw [loopDone_known (by omega), if_pos (by simp [hrem])]
  · rw [loopDone_unknown hsize, hlast, if_neg Bool.false_ne_true, if_pos hsize]
  · rw [loopDone_unknown hsize, hlast, if_pos rfl]

/-! ### The outputs -/

section
variable {s : State}

/-- No phase but `HEADER` and `DATA` reads the stream. -/
theorem nextRead_eq_none (hheader : s.phase ≠ .header) (hdata : s.phase ≠ .data) : nextRead s = none := by
  cases hphase : s.phase with
  | idle | done | err => exact nextRead_command (select_of_ready (by rw [hphase]; rfl))
  | tbuild => cases hvalid : s.tvalid <;> simp [nextRead, select_of_tbuild hphase, hvalid]
  | header => exact absurd hphase hheader
  | data => exact absurd hphase hdata

/-- In the data phase a read is next exactly while the loop runs (R170, R175). -/
theorem nextRead_data_iff (hphase : s.phase = .data) :
    (∃ n, nextRead s = some n ∧ 0 < n) ↔ s.step = 9 ∧ s.primed = true ∧ 0 < s.bufsz.toNat ∧
      (0 < s.cnt.dsize.toNat ∧ 0 < s.cnt.rem.toNat ∨ s.cnt.dsize.toNat = 0 ∧ s.cnt.last = false) := by
  have hsel := select_of_data hphase
  rcases selectData_cases s with ⟨hlost, hd⟩ | ⟨hnine, hprimed, hd⟩ | ⟨hnine, hprimed, hdone, hd⟩ |
    ⟨hnine, hprimed, hgoing, hsize, hd⟩ | ⟨hnine, hprimed, hgoing, hsize, hd⟩ <;> rw [hd] at hsel
  · simp [nextRead, hsel, hlost]
  · simp [nextRead, hsel, hprimed]
  · have hnot : ¬ (0 < s.cnt.dsize.toNat ∧ 0 < s.cnt.rem.toNat ∨ s.cnt.dsize.toNat = 0 ∧ s.cnt.last = false) := by
      rintro (⟨hsize, hrem⟩ | ⟨hsize, hlast⟩)
      · rw [loopDone_known (by omega), beq_iff_eq] at hdone
        omega
      · rw [loopDone_unknown hsize, hlast] at hdone
        exact absurd hdone (by decide)
    simp [nextRead, hsel, hnot]
  · rw [loopDone_unknown hsize] at hgoing
    simp [nextRead, hsel, hnine, hprimed, hsize, hgoing]
  · rw [loopDone_known hsize, beq_eq_false_iff_ne] at hgoing
    simp [nextRead, hsel, hnine, hprimed]
    omega

/-- In the header a read is next exactly at a legal step (R140). -/
theorem nextRead_header_iff (hphase : s.phase = .header) :
    (∃ n, nextRead s = some n ∧ 0 < n) ↔ 1 ≤ s.step.val ∧ s.step.val ≤ 8 := by
  refine ⟨?_, nextRead_of_header hphase⟩
  rintro ⟨n, hnext, -⟩
  rcases selectHeader_cases s with ⟨i, hi⟩ | hlost
  · exact selectHeader_step hi
  · rw [nextRead, select_of_header hphase, hlost] at hnext
    exact absurd hnext (by simp)

/-- R236: `in_ready` with `rst` low, in the form of log 24. -/
theorem inReady_iff (hrst : s.ports.rst = false) :
    s.inReady = true ↔ s.eosf = false ∧ ∃ n, nextRead s = some n ∧ 0 < n := by
  unfold State.inReady
  rw [hrst]
  cases nextRead s <;> simp

/-- The conditions of `in_ready`, phase by phase. -/
theorem inReady_iff_phase (hrst : s.ports.rst = false) :
    s.inReady = true ↔ s.eosf = false ∧
      (s.phase = .header ∧ 1 ≤ s.step.val ∧ s.step.val ≤ 8 ∨
        s.phase = .data ∧ s.step = 9 ∧ s.primed = true ∧ 0 < s.bufsz.toNat ∧
          (0 < s.cnt.dsize.toNat ∧ 0 < s.cnt.rem.toNat ∨ s.cnt.dsize.toNat = 0 ∧ s.cnt.last = false)) := by
  rw [inReady_iff hrst]
  refine and_congr_right fun _ => ?_
  by_cases hheader : s.phase = .header
  · simp [nextRead_header_iff hheader, hheader]
  · by_cases hdata : s.phase = .data
    · rw [nextRead_data_iff hdata]
      simp [hdata]
    · simp [nextRead_eq_none hheader hdata, hheader, hdata]

/-- R221: the phases in which a command is accepted. -/
theorem Phase.ready_iff (p : Phase) : p.ready = true ↔ p = .idle ∨ p = .done ∨ p = .err := by
  cases p <;> simp [Phase.ready]

end

/-- Settles O50: the reset state, and the outputs with `rst` low. -/
theorem resetAbandonsAnyPass : Obligations.ResetAbandonsAnyPass := by
  intro s
  refine ⟨fun hrst => ⟨by simp [State.cmdReady, hrst], by simp [State.inReady, hrst], by simp [State.done, hrst],
    resetCore s, step_of_reset hrst, rfl, rfl, rfl, rfl, rfl, rfl, rfl, fun addr hle haligned => ?reads⟩,
    fun hrst => ⟨?_, ?_, inReady_iff_phase hrst⟩⟩
  case reads => rw [readResult_of_aligned hle haligned, resetCore, resultRegister_resetWith]
  · rw [State.cmdReady, hrst, Bool.not_false, Bool.true_and, Phase.ready_iff]
  · simp [State.done, hrst]

/-! ### The result registers -/

/-- From `0x44` on the file holds the registers `CRC[i]` and nothing else (R36). -/
theorem resultRegister_of_ge {s : State} {addr : Nat} (h : 0x44 ≤ addr) :
    resultRegister s addr =
      if 0x80 ≤ addr ∧ addr < 0x80 + 4 * s.params.nacc then s.res.crc.getD ((addr - 0x80) / 4) 0#32 else 0#32 := by
  unfold resultRegister
  split
  case h_16 => rfl
  all_goals omega

/-- R46: `CRC[i]` stands at `0x80 + 4 * i`. -/
theorem readResult_crc {s : State} {i : Nat} (hn : s.params.nacc ≤ 16) (hi : i < s.params.nacc) :
    readResult s (0x80 + 4 * i) = .next (s.res.crc.getD i 0#32) := by
  have hindex : (0x80 + 4 * i - 0x80) / 4 = i := by omega
  rw [readResult_of_aligned (by omega) (by omega), resultRegister_of_ge (by omega),
    if_pos ⟨by omega, by omega⟩, hindex]

/-- R47: every address without a register reads 0. -/
theorem readResult_reserved {s : State} {a : Nat} (haligned : a % 4 = 0)
    (h : a ∈ [0x18, 0x1C] ∨ 0x44 ≤ a ∧ a ≤ 0x7C ∨ 0x80 + 4 * s.params.nacc ≤ a ∧ a ≤ 0xFC) :
    readResult s a = .next 0#32 := by
  simp only [List.mem_cons, List.mem_nil_iff, or_false] at h
  rcases h with (rfl | rfl) | h | h
  · rfl
  · rfl
  · rw [readResult_of_aligned (by omega) haligned, resultRegister_of_ge (by omega), if_neg (by omega)]
  · rw [readResult_of_aligned (by omega) haligned, resultRegister_of_ge (by omega), if_neg (by omega)]

section
variable {s : State}

/-- R37: the reserved bits of `STATUS` are 0. -/
theorem status_reserved {i : Nat} (hi : 4 ≤ i ∧ i ≤ 7 ∨ 10 ≤ i ∧ i ≤ 15 ∨ 19 ≤ i) :
    s.status.getLsbD i = false := by
  by_cases h32 : i < 32
  · have hmask : ∀ i < 32, (4 ≤ i ∧ i ≤ 7 ∨ 10 ≤ i ∧ i ≤ 15 ∨ 19 ≤ i) → (0xFFF8FCF0#32).getLsbD i = true := by
      decide
    obtain ⟨-, -, -, -, -, -, hzero⟩ := status_fields s
    have hbit := congrArg (BitVec.getLsbD · i) hzero
    simpa [hmask i h32 hi] using hbit
  · exact BitVec.getLsbD_of_ge _ _ (by omega)

/-- R37, R268: `OUTCOME` in `ERR` is the class of the code. -/
theorem outcome_of_err (hphase : s.phase = .err) : s.outcome = classOfCode s.res.errKind.toNat := by
  unfold State.outcome
  rw [hphase]

/-- R37: `OUTCOME` is 0 outside `DONE` and `ERR`. -/
theorem outcome_of_neither (hdone : s.phase ≠ .done) (herr : s.phase ≠ .err) : s.outcome = 0 := by
  unfold State.outcome
  cases hphase : s.phase with
  | done => exact absurd hphase hdone
  | err => exact absurd hphase herr
  | idle | tbuild | header | data => rfl

theorem busy_iff (p : Phase) : p.busy = true ↔ p = .tbuild ∨ p = .header ∨ p = .data := by
  cases p <;> simp [Phase.busy]

end

/-- Settles O51: the addresses one by one, then the fields of `STATUS`. -/
theorem resultReadsFollowTheRegisterMap : Obligations.ResultReadsFollowTheRegisterMap := by
  intro s hn
  obtain ⟨hbusy, hdone, herr, hvalid, htag, houtcome, -⟩ := status_fields s
  refine ⟨rfl, rfl, rfl, rfl, rfl, rfl, rfl, rfl, rfl, rfl, rfl, rfl, rfl, rfl, rfl,
    fun i hi => readResult_crc hn hi, fun a haligned h => readResult_reserved haligned h,
    fun a ha => if_pos ha, ?_, ?_, ?_, hvalid, htag, fun i hi => status_reserved hi,
    fun hphase => ?_, fun hphase h1 h10 => ?_, fun hphase h11 h12 => ?_, fun hd he => ?_⟩
  · rw [hbusy, busy_iff]
  · rw [hdone, beq_iff_eq]
  · rw [herr, beq_iff_eq]
  · have hone : s.outcome = 1 := by unfold State.outcome; rw [hphase]
    rw [houtcome, hone]
  · rw [houtcome, outcome_of_err hphase, classOfCode, if_neg (by omega), if_pos h10]
  · rw [houtcome, outcome_of_err hphase, classOfCode, if_neg (by omega), if_neg (by omega), if_pos h12]
  · rw [houtcome, outcome_of_neither hd he]

/-! ### The host's moves -/

/-- Settles O52: `hostMove_next` for the frame, then each move by its definition. -/
theorem hostMovesChangeThePortsAlone : Obligations.HostMovesChangeThePortsAlone := by
  refine ⟨fun m s t h => ?frame, fun s w v t b eos level => ?moves⟩
  case frame =>
    obtain ⟨p, rfl⟩ := hostMove_next h
    rfl
  case moves =>
    refine ⟨fun hcmd => ?_, fun hcmd => ?_, fun hcmd hne => ?_, rfl, fun hend => ?_, fun hend => ?_, rfl, rfl,
      rfl, rfl, rfl, rfl, rfl⟩
    · simp [hostMove, hcmd, withPorts]
    · simp [hostMove, hcmd]
    · simp [hostMove, hcmd, hne]
    · simp [hostMove, hend, withPorts]
    · simp [hostMove, hend]

end Sys2Proof.Machine

/-! Whole passes (R173 to R205): the read loop takes the data buffer by buffer, and the commit publishes the
checksums of the bytes that R205 names, whatever the buffers were. -/

namespace Sys2Proof.Machine

/-! ### Runs -/

/-- Some number of steps leads from one state to another. -/
abbrev Steps : State → State → Prop := Relation.ReflTransGen fun s t => step s = .next t

/-- Steps are a run of the machine. -/
theorem Steps.exists_run {s t : State} (h : Steps s t) : ∃ n, Sys2Proof.core.run n s = .next t := by
  induction h using Relation.ReflTransGen.head_induction_on with
  | refl => exact ⟨0, rfl⟩
  | head hstep _ ih =>
    obtain ⟨n, hn⟩ := ih
    refine ⟨n + 1, ?_⟩
    simp only [Host.Core.run, Sys2Proof.core, hstep]
    exact hn

/-! ### The closed form -/

section
variable {s : State}

/-- A table that the invariant calls valid is read as `TENTRY` (R122). -/
theorem StateInv.tableRead_eq (h : StateInv s) (hvalid : s.tvalid = true) : tableRead s = tentry := by
  funext b
  rw [tableRead, if_pos hvalid, h.tableBuilt hvalid, tentry_eq_builtTable_getD]

/-- An active accumulator is one of the accumulator file, and in a per-channel pass one of a selected channel of
the file (R148, R201). -/
theorem FormatOk.of_active (h : FormatOk s) (hp : s.params.Wf) {i : Nat} (hi : i ∈ activeSet s.params.nacc s.mode) :
    i < s.params.nacc ∧ (s.mode.report = true → i < 3) ∧ (s.mode.report = false → s.mode.gran = false → i = 0) ∧
      (s.mode.report = false → s.mode.gran = true → s.mode.sel.getLsbD i = true ∧ i < s.fmt.nch.toNat) := by
  have h3 : 3 ≤ s.params.nacc := hp.1
  cases hr : s.mode.report with
  | true =>
    have hmem : i = 0 ∨ i = 1 ∨ i = 2 := by simpa [activeSet, hr] using hi
    exact ⟨by omega, fun _ => by omega, fun h => absurd h (by decide), fun h => absurd h (by decide)⟩
  | false =>
    rw [mem_activeSet_plain hr] at hi
    cases hg : s.mode.gran with
    | false =>
      have hzero : i = 0 := by simpa [hg] using hi
      exact ⟨by omega, fun h => absurd h (by decide), fun _ _ => hzero, fun _ h => absurd h (by decide)⟩
    | true =>
      obtain ⟨hlt, hsel⟩ : i < s.params.nacc ∧ s.mode.sel.getLsbD i = true := by simpa [hg] using hi
      refine ⟨hlt, fun h => absurd h (by decide), fun _ h => absurd h (by decide), fun _ _ => ⟨hsel, ?_⟩⟩
      have hnone := h.channels
      rw [missingChannels, if_pos ⟨hr, hg⟩, selectorsBeyondChannels, List.filter_eq_nil_iff] at hnone
      simpa [hsel] using hnone i (List.mem_range.mpr hlt)

/-- R153: over a valid format the geometry of a buffer is that of a chunk. -/
theorem FormatOk.bufferGeometry_eq (h : FormatOk s) (d : List Byte) :
    bufferGeometry s d.length = chunkGeometry s.fmt d := by
  have hbits := s.fmt.bits.isLt
  have hbps : s.bps.toNat = s.fmt.bits.toNat / 8 := by
    rw [h.bps, BitVec.toNat_ofNat, Nat.mod_eq_of_lt (by omega)]
  rw [bufferGeometry, chunkGeometry, hbps]

/-- R205: the bytes that the selected operation feeds to an active accumulator over a chunk of whole blocks. -/
theorem FormatOk.fed_eq_hashedBytes (h : FormatOk s) (hp : s.params.Wf) {d : List Byte}
    (hblocks : d.length % s.fmt.ba.toNat = 0) {i : Nat} (hi : i ∈ activeSet s.params.nacc s.mode) :
    (accOpOf s.mode).fed s.params.nacc s.mode.sel (bufferGeometry s d.length) (byteAt d) i =
      hashedBytes s.mode (chunkGeometry s.fmt d) d i := by
  obtain ⟨h0, hba, -⟩ := h.geometry hp
  obtain ⟨hlt, hreport, hblock, hchannel⟩ := h.of_active hp hi
  have hall : AccOp.blkAll.fed s.params.nacc s.mode.sel (bufferGeometry s d.length) (byteAt d) 0 = d := by
    rw [fed_blkAll hba]
    simp only [bufferGeometry]
    rw [Nat.div_mul_cancel (Nat.dvd_of_mod_eq_zero hblocks), map_byteAt_range]
  rw [hashedBytes, ← h.bufferGeometry_eq]
  cases hr : s.mode.report with
  | true =>
    have hsmall := hreport hr
    rw [accOpOf_of_report hr]
    rcases (by omega : i = 0 ∨ i = 1 ∨ i = 2) with rfl | rfl | rfl
    · exact (fed_rpt_zero _).trans hall
    · exact (fed_rpt_one _).trans fed_blkNn
    · exact fed_rpt_two (nch_pos h0 hba)
  | false =>
    cases hg : s.mode.gran with
    | false =>
      obtain rfl := hblock hr hg
      rw [accOpOf_of_block hr hg]
      cases s.mode.filt with
      | false => exact hall
      | true => exact fed_blkNn
    | true =>
      obtain ⟨hsel, hch⟩ := hchannel hr hg
      rw [accOpOf_of_channel hr hg]
      cases s.mode.filt with
      | false => exact fed_chAll hlt hsel hch
      | true => exact fed_chNn hlt hsel hch

/-- R193, R205: from the start of the loop, the finalized value of each active accumulator over a chunk of whole
blocks. -/
theorem StateInv.crcFin_accAfter (h : StateInv s) (hphase : s.phase = .data) {d : List Byte}
    (hblocks : d.length % s.fmt.ba.toNat = 0) {i : Nat} (hi : i ∈ activeSet s.params.nacc s.mode) :
    crcFin ((accAfter (dataStart s) (byteAt d) d.length).getD i 0#32) =
      crc32 (hashedBytes s.mode (chunkGeometry s.fmt d) d i) := by
  have hformat := h.dataFormat hphase
  obtain ⟨-, hba, -⟩ := hformat.geometry h.params
  obtain ⟨hlt, -⟩ := hformat.of_active h.params hi
  have hlen : i < (dataStart s).acc.length := by simpa using hlt
  have hinit : (dataStart s).acc.getD i 0#32 = Config.init := by simp [hlt]
  have htable : tableRead (dataStart s) = tentry := h.tableRead_eq (h.passTable (.inr hphase))
  rw [accAfter_eq_acc, acc_getD _ (s := dataStart s) _ hba hblocks hlen, hinit, htable, crc32]
  exact congrArg (fun m => crcFin (crcFold tentry Config.init m)) (hformat.fed_eq_hashedBytes h.params hblocks hi)

end

/-! ### The read loop -/

/-- The read loop has taken the bytes `d`, and `rest` is left of the stream: the accumulators are those of `d` as
one buffer, and nothing but the data registers and the stream has changed (R173, R174, R181). -/
structure LoopTook (d rest : List Byte) (s t : State) : Prop where
  frame : ∃ pos eosf buf cnt, t = { s with
    pos := pos, eosf := eosf, buf := buf, cnt := cnt
    acc := accAfter s (byteAt d) d.length
    ports := { s.ports with inBytes := rest } }
  dsize : t.cnt.dsize = s.cnt.dsize

section
variable {s t u : State} {d e rest rest' : List Byte}

/-- A loop that has taken no byte. -/
theorem LoopTook.nil (hba : s.fmt.ba.toNat = s.bps.toNat * s.fmt.nch.toNat) (hrest : s.ports.inBytes = rest) :
    LoopTook [] rest s s := by
  have hacc : accAfter s (byteAt []) 0 = s.acc := by
    rw [accAfter_eq_acc]
    exact acc_eq_self_of_targets hba (Nat.zero_mod _) fun k _ hk => absurd hk (by simp)
  refine ⟨⟨s.pos, s.eosf, s.buf, s.cnt, ?_⟩, rfl⟩
  subst hrest
  rw [List.length_nil, hacc]

/-- R181: two stretches of the loop are one. -/
theorem LoopTook.trans (hba0 : s.fmt.ba.toNat ≠ 0) (hba : s.fmt.ba.toNat = s.bps.toNat * s.fmt.nch.toNat)
    (hd : d.length % s.fmt.ba.toNat = 0) (he : e.length % s.fmt.ba.toNat = 0) (h : LoopTook d rest s t)
    (h' : LoopTook e rest' t u) : LoopTook (d ++ e) rest' s u := by
  obtain ⟨⟨_, _, _, _, rfl⟩, hsize⟩ := h
  obtain ⟨⟨pos, eosf, buf, cnt, rfl⟩, hsize'⟩ := h'
  refine ⟨⟨pos, eosf, buf, cnt, ?_⟩, hsize'.trans hsize⟩
  rw [← accumulationIgnoresBufferBoundaries s d e hba0 hba hd he]
  rfl

/-- A state inside the read loop, before the end of the stream is seen. -/
structure InLoop (s : State) : Prop where
  inv : StateInv s
  rst : s.ports.rst = false
  phase : s.phase = .data
  primed : s.primed = true
  eosf : s.eosf = false

/-- R172: the start of the data phase leads into the loop. -/
theorem InLoop.of_dataStart (h : StateInv s) (hrst : s.ports.rst = false) (hphase : s.phase = .data)
    (he : s.eosf = false) : InLoop (dataStart s) :=
  ⟨h.of_dataStart hphase, hrst, hphase, rfl, he⟩

/-- A buffer leaves the core in the loop. -/
theorem InLoop.of_took (h : InLoop s) (hstep : step s = .next t) (htook : LoopTook d rest s t) (he : t.eosf = false) :
    InLoop t := by
  have hinv := everyStepKeepsTheInvariant s t h.inv hstep
  obtain ⟨⟨_, _, _, _, rfl⟩, -⟩ := htook
  exact ⟨hinv, h.rst, h.phase, h.primed, he⟩

/-- The format of a pass inside the loop (R153, R171); `BUFSZ` holds a block. -/
theorem InLoop.geometry (h : InLoop s) : s.fmt.ba.toNat ≠ 0 ∧ s.fmt.ba.toNat = s.bps.toNat * s.fmt.nch.toNat ∧
    s.bufsz.toNat % s.fmt.ba.toNat = 0 ∧ 0 < s.bufsz.toNat := by
  obtain ⟨h0, hba, hbufsz⟩ := (h.inv.dataFormat h.phase).geometry h.inv.params
  have hblocks : 1 ≤ s.params.bufBlocks := h.inv.params.2.2.1
  exact ⟨h0, hba, by rw [hbufsz, Nat.mul_mod_left], hbufsz ▸ Nat.mul_pos hblocks (Nat.pos_of_ne_zero h0)⟩

/-- A first buffer of `q` bytes, and the loop over the rest of the data. -/
theorem LoopTook.of_take {q : Nat} (h : InLoop s) (hbytes : s.ports.inBytes = d ++ rest) (hq : q ≤ d.length)
    (hd : d.length % s.fmt.ba.toNat = 0) (halign : q % s.fmt.ba.toNat = 0)
    (htook : LoopTook (s.ports.inBytes.take q) (s.ports.inBytes.drop q) s t) :
    t.ports.inBytes = d.drop q ++ rest ∧ ∀ u, LoopTook (d.drop q) rest t u → LoopTook d rest s u := by
  obtain ⟨h0, hba, -⟩ := h.geometry
  rw [hbytes, List.take_append_of_le_length hq, List.drop_append_of_le_length hq] at htook
  have htake : (d.take q).length % s.fmt.ba.toNat = 0 := by rwa [List.length_take_of_le hq]
  have hdrop : (d.drop q).length % s.fmt.ba.toNat = 0 := by
    rw [List.length_drop]
    exact Nat.mod_eq_zero_of_dvd (Nat.dvd_sub (Nat.dvd_of_mod_eq_zero hd) (Nat.dvd_of_mod_eq_zero halign))
  constructor
  · obtain ⟨_, _, _, _, rfl⟩ := htook.frame
    rfl
  · intro u htook'
    have hall := htook.trans h0 hba htake hdrop htook'
    rwa [List.take_append_drop] at hall

/-- R173: one buffer of a chunk of known size. -/
theorem InLoop.step_known (h : InLoop s) (hsize : s.cnt.dsize.toNat ≠ 0) (hrem : s.cnt.rem.toNat ≠ 0)
    (hle : knownRequest s ≤ s.ports.inBytes.length) :
    ∃ t, step s = .next t ∧ LoopTook (s.ports.inBytes.take (knownRequest s))
        (s.ports.inBytes.drop (knownRequest s)) s t ∧
      t.eosf = false ∧ t.cnt.rem.toNat = s.cnt.rem.toNat - knownRequest s := by
  obtain ⟨h0, hba, -⟩ := h.geometry
  have hsel : select s = .perform .rdbufKnown := by
    rw [select_of_primed h.phase (h.inv.dataStep h.phase) h.primed, loopDone_known hsize,
      if_neg (by simpa using hrem), if_neg hsize]
  have hreq : knownRequest s ≤ s.cnt.rem.toNat := Nat.min_le_right _ _
  obtain ⟨-, hsum⟩ := h.inv.remAligned h.phase h.primed hsize
  refine ⟨_, (step_of_perform h.rst hsel).trans (execRdbufKnown_delivered h.eosf hle h0 hba),
    ⟨⟨_, _, _, _, rfl⟩, rfl⟩, h.eosf, ?_⟩
  exact (rem_tot_after hreq hsum).1

/-- R173, R175: the loop of known size takes exactly the bytes that `REM` counts. -/
theorem InLoop.known_loop {s : State} {d : List Byte} (h : InLoop s) (hsize : s.cnt.dsize.toNat ≠ 0)
    (hbytes : s.ports.inBytes = d ++ rest) (hlen : d.length = s.cnt.rem.toNat) :
    ∃ t, Steps s t ∧ LoopTook d rest s t ∧ loopDone t = true := by
  obtain ⟨-, hba, -, hpos⟩ := h.geometry
  by_cases hrem : s.cnt.rem.toNat = 0
  · obtain rfl : d = [] := List.eq_nil_of_length_eq_zero (hlen.trans hrem)
    exact ⟨s, .refl, .nil hba hbytes, by rw [loopDone_known hsize, hrem]; rfl⟩
  · have hreq : knownRequest s ≤ d.length := hlen ▸ Nat.min_le_right _ _
    have hmore : 0 < knownRequest s := Nat.lt_min.mpr ⟨hpos, Nat.pos_of_ne_zero hrem⟩
    obtain ⟨hremba, -⟩ := h.inv.remAligned h.phase h.primed hsize
    obtain ⟨t, hstep, htook, het, hremt⟩ := h.step_known hsize hrem (by rw [hbytes, List.length_append]; omega)
    obtain ⟨hleft, hjoin⟩ := LoopTook.of_take h hbytes hreq (hlen ▸ hremba)
      (knownRequest_aligned h.inv.params (h.inv.dataFormat h.phase) hremba) htook
    obtain ⟨u, hsteps, htook', hdone⟩ := (h.of_took hstep htook het).known_loop (by rw [htook.dsize]; exact hsize)
      hleft (by rw [List.length_drop, hlen, hremt])
    exact ⟨u, .head hstep hsteps, hjoin u htook', hdone⟩
termination_by d.length
decreasing_by rw [List.length_drop]; omega

/-- R174: a full buffer of a stream of unknown size. -/
theorem InLoop.step_unknown_full (h : InLoop s) (hsize : s.cnt.dsize.toNat = 0) (hlast : s.cnt.last = false)
    (hle : s.bufsz.toNat ≤ s.ports.inBytes.length) :
    ∃ t, step s = .next t ∧ LoopTook (s.ports.inBytes.take s.bufsz.toNat) (s.ports.inBytes.drop s.bufsz.toNat) s t ∧
      t.eosf = false ∧ t.cnt.last = false := by
  obtain ⟨h0, hba, -⟩ := h.geometry
  have hsel : select s = .perform .rdbufUnknown := by
    rw [select_of_primed h.phase (h.inv.dataStep h.phase) h.primed, loopDone_unknown hsize, hlast,
      if_neg Bool.false_ne_true, if_pos hsize]
  have hlen : (s.ports.inBytes.take s.bufsz.toNat).length = s.bufsz.toNat := List.length_take_of_le hle
  exact ⟨_, (step_of_perform h.rst hsel).trans (execRdbufUnknown_full h0 hba (streamRead_full h.eosf hle) hlen),
    ⟨⟨_, _, _, _, rfl⟩, rfl⟩, h.eosf, hlast⟩

/-- R174: the last buffer of a stream of unknown size. -/
theorem InLoop.step_unknown_last (h : InLoop s) (hsize : s.cnt.dsize.toNat = 0) (hlast : s.cnt.last = false)
    (hlt : s.ports.inBytes.length < s.bufsz.toNat) (hend : s.ports.inEnd = true)
    (hblocks : s.ports.inBytes.length % s.fmt.ba.toNat = 0) :
    ∃ t, step s = .next t ∧ LoopTook s.ports.inBytes [] s t ∧ t.cnt.last = true := by
  obtain ⟨h0, hba, -⟩ := h.geometry
  have hsel : select s = .perform .rdbufUnknown := by
    rw [select_of_primed h.phase (h.inv.dataStep h.phase) h.primed, loopDone_unknown hsize, hlast,
      if_neg Bool.false_ne_true, if_pos hsize]
  exact ⟨_, (step_of_perform h.rst hsel).trans
    (execRdbufUnknown_last h0 hba (streamRead_ended h.eosf hlt hend) hlt hblocks), ⟨⟨_, _, _, _, rfl⟩, rfl⟩, rfl⟩

/-- R174, R175: the loop of unknown size takes everything up to the end. -/
theorem InLoop.unknown_loop {s : State} {d : List Byte} (h : InLoop s) (hsize : s.cnt.dsize.toNat = 0)
    (hlast : s.cnt.last = false) (hbytes : s.ports.inBytes = d) (hend : s.ports.inEnd = true)
    (hblocks : d.length % s.fmt.ba.toNat = 0) :
    ∃ t, Steps s t ∧ LoopTook d [] s t ∧ loopDone t = true := by
  obtain ⟨-, hba, halign, hpos⟩ := h.geometry
  rcases Nat.lt_or_ge d.length s.bufsz.toNat with hlt | hge
  · obtain ⟨t, hstep, htook, hlast'⟩ := h.step_unknown_last hsize hlast (hbytes ▸ hlt) hend (hbytes ▸ hblocks)
    exact ⟨t, .single hstep, hbytes ▸ htook, by rw [loopDone_unknown (htook.dsize ▸ hsize), hlast']⟩
  · obtain ⟨t, hstep, htook, het, hlast'⟩ := h.step_unknown_full hsize hlast (hbytes ▸ hge)
    obtain ⟨hleft, hjoin⟩ := LoopTook.of_take h (hbytes.trans (List.append_nil d).symm) hge hblocks halign htook
    have hnext := h.of_took hstep htook het
    obtain ⟨⟨pos, eosf, buf, cnt, ht⟩, hdsize⟩ := htook
    obtain ⟨u, hsteps, htook', hdone⟩ := hnext.unknown_loop (hdsize ▸ hsize) hlast' (hleft.trans (List.append_nil _))
      (by rw [ht]; exact hend) (by
        rw [ht, List.length_drop]
        exact Nat.mod_eq_zero_of_dvd (Nat.dvd_sub (Nat.dvd_of_mod_eq_zero hblocks) (Nat.dvd_of_mod_eq_zero halign)))
    exact ⟨u, .head hstep hsteps, hjoin u htook', hdone⟩
termination_by d.length
decreasing_by rw [List.length_drop]; omega

end

/-! ### The end of the pass -/

/-- A pass has ended in `DONE` with the checksums of the data bytes `d`, and `rest` is left of the stream
(R201, R205, R230). -/
structure PassDone (d rest : List Byte) (s t : State) : Prop where
  phase : t.phase = .done
  stream : t.ports.inBytes = rest
  tag : t.res.modeTag = s.res.modeTag
  valid : t.res.valid = validWord (activeSet s.params.nacc s.mode)
  crc : ∀ i ∈ activeSet s.params.nacc s.mode,
    t.res.crc.getD i 0#32 = crc32 (hashedBytes s.mode (chunkGeometry s.fmt d) d i)

section
variable {s t : State} {d rest : List Byte}

/-- R230: what the commit leaves of the results, with or without the report extras. -/
theorem execCommit_results (s : State) : ∃ t, execCommit s = .next t ∧ t.phase = .done ∧
    t.ports.inBytes = s.ports.inBytes ∧ t.res.modeTag = s.res.modeTag ∧
    t.res.valid = validWord (activeSet s.params.nacc s.mode) ∧
    t.res.crc = committedCrc s.params.nacc (activeSet s.params.nacc s.mode) s.acc := by
  unfold execCommit
  split
  · obtain ⟨ts, n, heq⟩ := reportExtras_exists (commitPlain s)
    exact ⟨_, rfl, by rw [heq]; exact ⟨rfl, rfl, rfl, rfl, rfl⟩⟩
  · exact ⟨_, rfl, rfl, rfl, rfl, rfl, rfl⟩

/-- R175, R205: the commit after the loop publishes the closed form over the bytes that the loop took. -/
theorem PassDone.of_took (h : StateInv s) (hrst : s.ports.rst = false) (hphase : s.phase = .data)
    (hprimed : s.primed = false) (hblocks : d.length % s.fmt.ba.toNat = 0) (hsteps : Steps (dataStart s) t)
    (htook : LoopTook d rest (dataStart s) t) (hdone : loopDone t = true) :
    ∃ u, Steps s u ∧ PassDone d rest s u := by
  have hnine := h.dataStep hphase
  have hstart : step s = .next (dataStart s) := step_of_dataStart hrst (select_of_not_primed hphase hnine hprimed)
  obtain ⟨⟨pos, eosf, buf, cnt, ht⟩, -⟩ := htook
  obtain ⟨u, hcommit, hu, hstream, htag, hvalid, hcrc⟩ := execCommit_results t
  have hsel : select t = .perform .commit := by
    rw [select_of_primed (by rw [ht]; exact hphase) (by rw [ht]; exact hnine) (by rw [ht]; rfl), hdone, if_pos rfl]
  have hend : step t = .next u := (step_of_perform (by rw [ht]; exact hrst) hsel).trans hcommit
  refine ⟨u, .head hstart (hsteps.tail hend), hu, ?_, ?_, ?_, fun i hi => ?_⟩
  · rw [hstream, ht]
  · rw [htag, ht]
    rfl
  · rw [hvalid, ht]
    rfl
  · obtain ⟨hlt, -⟩ := (h.dataFormat hphase).of_active h.params hi
    rw [← h.crcFin_accAfter hphase hblocks hi, hcrc, ht]
    exact (committedCrc_getD _ _ hlt).trans (if_pos hi)

/-- A pass of known size, its data delivered, ends `DONE` (R173, R178). -/
theorem PassDone.of_known (h : StateInv s) (hrst : s.ports.rst = false) (hphase : s.phase = .data)
    (hprimed : s.primed = false) (he : s.eosf = false) (hbytes : s.ports.inBytes = d ++ rest)
    (hlen : d.length = s.cnt.dsize.toNat) (hpos : 0 < d.length) : ∃ t, Steps s t ∧ PassDone d rest s t := by
  obtain ⟨t, hsteps, htook, hdone⟩ := (InLoop.of_dataStart h hrst hphase he).known_loop (d := d) (rest := rest)
    (show s.cnt.dsize.toNat ≠ 0 by omega) hbytes hlen
  exact PassDone.of_took h hrst hphase hprimed (hlen ▸ h.dataAligned hphase) hsteps htook hdone

/-- A pass of unknown size over a stream of whole blocks ends `DONE` (R174, R178). -/
theorem PassDone.of_unknown (h : StateInv s) (hrst : s.ports.rst = false) (hphase : s.phase = .data)
    (hprimed : s.primed = false) (he : s.eosf = false) (hsize : s.cnt.dsize.toNat = 0) (hbytes : s.ports.inBytes = d)
    (hend : s.ports.inEnd = true) (hblocks : d.length % s.fmt.ba.toNat = 0) :
    ∃ t, Steps s t ∧ PassDone d [] s t := by
  obtain ⟨t, hsteps, htook, hdone⟩ :=
    (InLoop.of_dataStart h hrst hphase he).unknown_loop hsize rfl hbytes hend hblocks
  exact PassDone.of_took h hrst hphase hprimed hblocks hsteps htook hdone

end

/-- Settles O58: the loop of known size, then the commit. -/
theorem knownSizePassCommitsTheClosedForm : Obligations.KnownSizePassCommitsTheClosedForm := by
  intro s d rest h hrst hphase hprimed he hbytes hlen hpos
  obtain ⟨t, hsteps, hdone⟩ := PassDone.of_known h hrst hphase hprimed he hbytes hlen hpos
  obtain ⟨n, hrun⟩ := hsteps.exists_run
  exact ⟨n, t, hrun, hdone.phase, hdone.stream, hdone.valid, hdone.crc⟩

/-- Settles O59: the loop of unknown size, then the commit. -/
theorem unknownSizePassCommitsTheClosedForm : Obligations.UnknownSizePassCommitsTheClosedForm := by
  intro s d h hrst hphase hprimed he hsize hbytes hend hblocks
  obtain ⟨t, hsteps, hdone⟩ := PassDone.of_unknown h hrst hphase hprimed he hsize hbytes hend hblocks
  obtain ⟨n, hrun⟩ := hsteps.exists_run
  exact ⟨n, t, hrun, hdone.phase, hdone.stream, hdone.valid, hdone.crc⟩

end Sys2Proof.Machine

/-! A file from its command word on (R73, R222): the acceptance, the table build if it is needed, the eight header
steps over the bytes of the header, and the pass of known size over the data. -/

namespace Sys2Proof.Machine

/-! ### The bytes of a header -/

/-- R15: the four bytes of a `u32`, read back. -/
theorem le32_le32Bytes (w : Word) : le32 (le32Bytes w) 0 = w := by
  have hlt := w.isLt
  refine BitVec.eq_of_toNat_eq ?_
  rw [le32_toNat]
  simp only [byteAt, le32Bytes, List.getD_cons_zero, List.getD_cons_succ, BitVec.extractLsb'_toNat,
    Nat.shiftRight_eq_div_pow]
  omega

/-- R15: the two bytes of a `u16`, read back. -/
theorem le16_le16Bytes (h : Half) : le16 (le16Bytes h) 0 = h := by
  have hlt := h.isLt
  refine BitVec.eq_of_toNat_eq ?_
  rw [le16_toNat]
  simp only [byteAt, le16Bytes, List.getD_cons_zero, List.getD_cons_succ, BitVec.extractLsb'_toNat,
    Nat.shiftRight_eq_div_pow]
  omega

/-- The sixteen bytes of the format field (R99). -/
def descriptorBytes (f : Descriptor) : List Byte :=
  le16Bytes f.tag ++ le16Bytes f.nch ++ le32Bytes f.rate ++ le32Bytes f.brate ++ le16Bytes f.ba ++ le16Bytes f.bits

/-- R99: the descriptor of the bytes of a descriptor. -/
theorem descriptorOf_descriptorBytes (f : Descriptor) : descriptorOf (descriptorBytes f) = f := by
  have htag := le16_le16Bytes f.tag
  have hnch := le16_le16Bytes f.nch
  have hrate := le32_le32Bytes f.rate
  have hbrate := le32_le32Bytes f.brate
  have hba := le16_le16Bytes f.ba
  have hbits := le16_le16Bytes f.bits
  cases f
  simp only [Descriptor.mk.injEq, descriptorOf]
  exact ⟨htag, hnch, hrate, hbrate, hba, hbits⟩

/-- The header bytes field by field (R73), with what follows them. -/
theorem headerBytes_append (riffSize : Word) (f : Descriptor) (dsize : Word) (bs : List Byte) :
    headerBytes riffSize f dsize ++ bs =
      [0x52#8, 0x49#8, 0x46#8, 0x46#8] ++ (le32Bytes riffSize ++ ([0x57#8, 0x41#8, 0x56#8, 0x45#8] ++
        ([0x66#8, 0x6D#8, 0x74#8, 0x20#8] ++ ([0x10#8, 0x00#8, 0x00#8, 0x00#8] ++ (descriptorBytes f ++
          ([0x64#8, 0x61#8, 0x74#8, 0x61#8] ++ (le32Bytes dsize ++ bs))))))) := by
  simp only [headerBytes, descriptorBytes, List.append_assoc]

/-! ### The header steps of one pass -/

/-- The core is at header step `n` of a pass in mode `m`, the bytes `bs` are delivered, and from step 7 on the
descriptor is `f`. -/
structure AtField (p : Config.Params) (m : Mode) (f : Descriptor) (n : Fin 10) (bs : List Byte) (s : State) :
    Prop where
  inv : StateInv s
  rst : s.ports.rst = false
  phase : s.phase = .header
  eosf : s.eosf = false
  params : s.params = p
  mode : s.mode = m
  step : s.step = n
  stream : s.ports.inBytes = bs
  format : 7 ≤ n.val → s.fmt = f

section
variable {p : Config.Params} {m : Mode} {f : Descriptor} {n : Fin 10} {i : Instr} {b bs : List Byte} {s t : State}

/-- A step performs the operation of the field (R140). -/
theorem AtField.step_eq (h : AtField p m f n bs s)
    (hi : (n, i) ∈ [((1 : Fin 10), Instr.h1), (2, .h2), (3, .h3), (4, .h4), (5, .h5), (6, .h6), (7, .h7), (8, .h8)]) :
    Machine.step s = exec i s :=
  step_of_perform h.rst ((select_of_header h.phase).trans (selectHeader_of_mem hi h.step))

/-- The bytes of the field are the front of the stream. -/
theorem AtField.take (h : AtField p m f n (b ++ bs) s) : s.ports.inBytes.take b.length = b := by
  rw [h.stream, List.take_left]

theorem AtField.le (h : AtField p m f n (b ++ bs) s) : b.length ≤ s.ports.inBytes.length := by
  rw [h.stream, List.length_append]
  exact Nat.le_add_right _ _

/-- A field of four bytes in order leads to the next step. -/
theorem AtField.advance {next : Fin 10} (h : AtField p m f n (b ++ bs) s) (hb : b.length = 4)
    (hi : (n, i) ∈ [((1 : Fin 10), Instr.h1), (2, .h2), (3, .h3), (4, .h4), (5, .h5), (6, .h6), (7, .h7), (8, .h8)])
    (hnext : 7 ≤ next.val → 7 ≤ n.val) (hexec : exec i s = .next { afterRead 4 s with step := next }) :
    ∃ t, Machine.step s = .next t ∧ AtField p m f next bs t := by
  have hstep := (h.step_eq hi).trans hexec
  refine ⟨_, hstep, everyStepKeepsTheInvariant _ _ h.inv hstep, h.rst, h.phase, h.eosf, h.params, h.mode, rfl, ?_,
    fun hseven => h.format (hnext hseven)⟩
  change s.ports.inBytes.drop 4 = bs
  rw [h.stream, ← hb, List.drop_left]

/-- A tag step over its constant leads to the next step (R141). -/
theorem AtField.tag {k : Nat} {next : Fin 10} {e : Word} {kind : ErrKind} (h : AtField p m f n (b ++ bs) s)
    (hb : b.length = 4)
    (hi : (n, i) ∈ [((1 : Fin 10), Instr.h1), (2, .h2), (3, .h3), (4, .h4), (5, .h5), (6, .h6), (7, .h7), (8, .h8)])
    (hnext : 7 ≤ next.val → 7 ≤ n.val) (hexec : exec i s = constStep k next e kind s) (hval : le32 b 0 = e) :
    ∃ t, Machine.step s = .next t ∧ AtField p m f next bs t :=
  h.advance hb hi hnext (hexec.trans (constStep_hit h.eosf (hb ▸ h.take) hb hval))

/-- Step 6 over the bytes of a valid descriptor leads to step 7 (R146 to R148). -/
theorem AtField.descriptor (h : AtField p m f 6 (descriptorBytes f ++ bs) s) (hcheck : descriptorCheck f = none)
    (hchannels : m.report = false → m.gran = true → ∀ c, m.sel.getLsbD c = true → c < f.nch.toNat) :
    ∃ t, Machine.step s = .next t ∧ AtField p m f 7 bs t := by
  have hfmt : descriptorOf (s.ports.inBytes.take 16) = f := by
    rw [show 16 = (descriptorBytes f).length from rfl, h.take, descriptorOf_descriptorBytes]
  have hmode := h.mode
  have hexec : exec .h6 s = .next (deriveGeometry { afterRead 16 s with fmt := f }) := by
    rw [exec_h6_full h.eosf h.le, hfmt, checkFormat_of_valid hcheck]
    refine missingChannels_eq_nil fun hr hg c _ hsel => ?_
    subst hmode
    exact hchannels hr hg c hsel
  have hstep := (h.step_eq (i := .h6) (by simp)).trans hexec
  refine ⟨_, hstep, everyStepKeepsTheInvariant _ _ h.inv hstep, h.rst, h.phase, h.eosf, h.params, h.mode, rfl, ?_,
    fun _ => rfl⟩
  change s.ports.inBytes.drop 16 = bs
  rw [h.stream, show 16 = (descriptorBytes f).length from rfl, List.drop_left]

/-- The core is at the start of the data phase of a pass in mode `m` over `dsize` bytes in the format `f`, and the
bytes `bs` are delivered. -/
structure AtData (p : Config.Params) (m : Mode) (f : Descriptor) (dsize : Word) (bs : List Byte) (s : State) :
    Prop where
  inv : StateInv s
  rst : s.ports.rst = false
  phase : s.phase = .data
  primed : s.primed = false
  eosf : s.eosf = false
  params : s.params = p
  mode : s.mode = m
  fmt : s.fmt = f
  dsize : s.cnt.dsize = dsize
  stream : s.ports.inBytes = bs

/-- Step 8 over a data size of whole blocks leads to the data phase (R150). -/
theorem AtField.dataSize {dsize : Word} (h : AtField p m f 8 (le32Bytes dsize ++ bs) s)
    (h0 : f.ba.toNat ≠ 0) (hdsize : dsize.toNat % f.ba.toNat = 0) :
    ∃ t, Machine.step s = .next t ∧ AtData p m f dsize bs t := by
  have hfmt := h.format (by decide)
  have htake : s.ports.inBytes.take 4 = le32Bytes dsize := h.take
  obtain ⟨henter, -⟩ := dataSizeMustBeAligned s _ dsize h.eosf h.le
    (by rw [htake, le32_le32Bytes]) rfl
  have hstep := (h.step_eq (i := .h8) (by simp)).trans (henter (.inr ⟨hfmt ▸ h0, hfmt ▸ hdsize⟩))
  refine ⟨_, hstep, everyStepKeepsTheInvariant _ _ h.inv hstep, h.rst, rfl, rfl, h.eosf, h.params, h.mode, hfmt,
    rfl, ?_⟩
  change s.ports.inBytes.drop 4 = bs
  rw [h.stream, show 4 = (le32Bytes dsize).length from rfl, List.drop_left]

/-- The eight header steps over the header of a valid file lead to the data phase (R73, R140). -/
theorem AtField.header {riffSize dsize : Word} (h : AtField p m f 1 (headerBytes riffSize f dsize ++ bs) s)
    (hcheck : descriptorCheck f = none)
    (hchannels : m.report = false → m.gran = true → ∀ c, m.sel.getLsbD c = true → c < f.nch.toNat)
    (h0 : f.ba.toNat ≠ 0) (hdsize : dsize.toNat % f.ba.toNat = 0) :
    ∃ t, Steps s t ∧ AtData p m f dsize bs t := by
  rw [headerBytes_append] at h
  obtain ⟨s2, hstep1, h2⟩ := h.tag (i := .h1) rfl (by simp) (by decide) rfl rfl
  obtain ⟨s3, hstep2, h3⟩ := h2.advance (i := .h2) (next := 3) rfl (by simp) (by decide)
    (readHdr_full (k := 2) h2.eosf h2.le)
  obtain ⟨s4, hstep3, h4⟩ := h3.tag (i := .h3) rfl (by simp) (by decide) rfl rfl
  obtain ⟨s5, hstep4, h5⟩ := h4.tag (i := .h4) rfl (by simp) (by decide) rfl rfl
  obtain ⟨s6, hstep5, h6⟩ := h5.tag (i := .h5) rfl (by simp) (by decide) rfl rfl
  obtain ⟨s7, hstep6, h7⟩ := h6.descriptor hcheck hchannels
  obtain ⟨s8, hstep7, h8⟩ := h7.tag (i := .h7) rfl (by simp) (by decide) rfl rfl
  obtain ⟨t, hstep8, ht⟩ := h8.dataSize h0 hdsize
  exact ⟨t, .head hstep1 (.head hstep2 (.head hstep3 (.head hstep4 (.head hstep5 (.head hstep6 (.head hstep7
    (.single hstep8))))))), ht⟩

end

/-! ### The acceptance -/

section
variable {s : State} {m : Mode} {bs : List Byte}

/-- The word of a `RUN` command is what the core performs next (R220, R221). -/
theorem select_of_runWord (hready : s.phase.ready = true)
    (hcmd : s.ports.cmd = some (runWord m.report m.filt m.gran m.sel)) :
    select s = .perform (decodeRun m.report m.filt m.gran m.sel) := by
  rw [select_of_ready hready, selectCommand, hcmd]
  simp only [decodeCmd_runWord]

/-- R225: a `RUN` command that waits for the table goes on with the first header step. -/
theorem StateInv.builds (h : StateInv s) (hrst : s.ports.rst = false) (hphase : s.phase = .tbuild)
    (hrun : s.runPending = true) (he : s.eosf = false) (f : Descriptor) :
    ∃ t, step s = .next t ∧ AtField s.params s.mode f 1 s.ports.inBytes t := by
  have hvalid := h.buildNeeded hphase
  have hstep : step s = .next (tbuildLoop s) :=
    step_of_perform (i := .tbuildLoop) hrst
      ((select_of_tbuild hphase).trans (by rw [hvalid, if_neg Bool.false_ne_true]))
  exact ⟨_, hstep, everyStepKeepsTheInvariant _ _ h hstep, by simpa using hrst, by simp [hvalid, hrun],
    by simpa using he, by simp, by simp, by simp [hvalid, hrun], by simp, fun hseven => absurd hseven (by decide)⟩

/-- R224, R225: an accepted `RUN` command leads to the first header step, through the table build while the table is
not valid. -/
theorem StateInv.accept (h : StateInv s) (hrst : s.ports.rst = false) (hready : s.phase.ready = true)
    (hcmd : s.ports.cmd = some (runWord m.report m.filt m.gran m.sel))
    (hselectors : m.report = false → m.gran = true → ∀ c, m.sel.getLsbD c = true → c < s.params.nacc)
    (f : Descriptor) : ∃ t, Steps s t ∧ AtField s.params m f 1 s.ports.inBytes t := by
  have hnone : refusedChannels m.report m.gran m.sel s.params.nacc = [] := by
    by_cases hexamined : m.report = false ∧ m.gran = true
    · obtain ⟨hr, hg⟩ := hexamined
      rw [hr, hg]
      refine refusedChannels_eq_nil fun c hc => ?_
      by_contra hsel
      have hlt := hselectors hr hg c (by simpa using hsel)
      omega
    · exact refusedChannels_of_unexamined _ hexamined _
  have hstep : step s = .next (passStarted m.report m.filt m.gran m.sel s) := by
    rw [step_of_perform hrst (select_of_runWord hready hcmd), exec_decodeRun]
    exact acceptRun_started _ _ _ _ hready hnone
  have hinv := everyStepKeepsTheInvariant _ _ h hstep
  obtain ⟨ts, n, htime⟩ := timeAdvance_frame s
  rw [passStarted, htime] at hstep hinv
  cases hvalid : s.tvalid with
  | true =>
    rw [hvalid] at hstep hinv
    exact ⟨_, .single hstep, hinv, hrst, rfl, rfl, rfl, rfl, rfl, rfl, fun hseven => absurd hseven (by decide)⟩
  | false =>
    rw [hvalid] at hstep hinv
    obtain ⟨t, hbuild, ht⟩ := hinv.builds hrst rfl rfl rfl f
    exact ⟨t, .head hstep (.single hbuild), ht⟩

end

/-- Settles O60: the acceptance, the header, then the pass of known size. -/
theorem validFileYieldsItsChecksums : Obligations.ValidFileYieldsItsChecksums := by
  intro s m f riffSize dsize d rest h hrst hready hcmd hchannels hcheck hlen hpos hblocks hbytes
  obtain ⟨hnch, hbits, hwhole, hba, -⟩ := descriptorCheck_none.mp hcheck
  have h0 : f.ba.toNat ≠ 0 := by
    rw [hba]
    exact Nat.mul_ne_zero (by omega) hnch
  obtain ⟨s1, hsteps1, h1⟩ := h.accept hrst hready hcmd (fun hr hg c hc => (hchannels hr hg c hc).1) f
  rw [hbytes, List.append_assoc] at h1
  obtain ⟨s2, hsteps2, h2⟩ := h1.header hcheck (fun hr hg c hc => (hchannels hr hg c hc).2) h0 (hlen ▸ hblocks)
  obtain ⟨t, hsteps3, hdone⟩ := PassDone.of_known h2.inv h2.rst h2.phase h2.primed h2.eosf h2.stream
    (by rw [h2.dsize, hlen]) hpos
  obtain ⟨n, hrun⟩ := Steps.exists_run ((hsteps1.trans hsteps2).trans hsteps3)
  obtain ⟨hphase, hstream, htag, hvalid, hcrc⟩ := hdone
  rw [h2.params, h2.mode] at hvalid hcrc
  rw [h2.fmt] at hcrc
  rw [h2.inv.tagPass (.inr (.inl h2.phase)), latchedTag, h2.mode] at htag
  exact ⟨n, t, hrun, hphase, hstream, htag, hvalid, hcrc⟩

end Sys2Proof.Machine

/-! Two machines side by side (R51, R276): a relation between states that the updates of the machine respect is one
that every step respects. The two noninterference claims are two such relations. -/

namespace Sys2Proof.Machine

/-! ### Outcomes side by side -/

/-- Two outcomes of one kind, with related states. -/
inductive OutcomeRel (R : State → State → Prop) :
    Host.Outcome State Fault Refusal → Host.Outcome State Fault Refusal → Prop
  | next {a b : State} (h : R a b) : OutcomeRel R (.next a) (.next b)
  | fault (f : Fault) : OutcomeRel R (.fault f) (.fault f)
  | refused (f : Refusal) : OutcomeRel R (.refused f) (.refused f)

/-- Where one machine has a next state, so has the other, and the two are related. -/
theorem OutcomeRel.exists_next {R : State → State → Prop} {x y : Host.Outcome State Fault Refusal} {s : State}
    (h : OutcomeRel R x y) (hx : x = .next s) : ∃ t, y = .next t ∧ R s t := by
  subst hx
  cases h with
  | next hR => exact ⟨_, rfl, hR⟩

/-- Agreement on what a read of the stream sees and counts. -/
structure SameStream (a b : State) : Prop where
  pos : a.pos = b.pos
  eosf : a.eosf = b.eosf
  inBytes : a.ports.inBytes = b.ports.inBytes
  inEnd : a.ports.inEnd = b.ports.inEnd

/-- The state after a read that leaves `POS`, `EOSF` and the stream as named. -/
def readTo (pos : Nat) (eosf : Bool) (bytes : List Byte) (s : State) : State :=
  { s with pos := pos, eosf := eosf, ports := { s.ports with inBytes := bytes } }

/-- Over one stream two machines read the same (R62). -/
theorem SameStream.read {a b : State} (h : SameStream a b) (n : Nat) :
    streamRead n a = none ∧ streamRead n b = none ∨
    ∃ r pos eosf bytes, streamRead n a = some (r, readTo pos eosf bytes a) ∧
      streamRead n b = some (r, readTo pos eosf bytes b) := by
  obtain ⟨hpos, he, hbytes, hend⟩ := h
  unfold streamRead
  rw [← hpos, ← he, ← hbytes, ← hend]
  split
  · refine .inr ⟨[], a.pos, a.eosf, a.ports.inBytes, rfl, ?_⟩
    rw [readTo, hpos, he, hbytes]
  · split
    · refine .inr ⟨_, a.pos + n, a.eosf, a.ports.inBytes.drop n, rfl, ?_⟩
      rw [readTo, he]
    · split
      · exact .inr ⟨_, a.pos + a.ports.inBytes.length, true, [], rfl, rfl⟩
      · exact .inl ⟨rfl, rfl⟩

/-! ### A relation that the updates respect -/

/-- The format and the read loop's registers agree where the rules of the phase read them. -/
structure AgreeRead (a b : State) : Prop where
  mode : a.phase = .header ∨ a.phase = .data → a.mode = b.mode
  stream : a.phase = .header ∨ a.phase = .data → SameStream a b
  format : a.phase = .header ∧ 7 ≤ a.step.val ∨ a.phase = .data → AgreeFormat a b
  rem : a.phase = .data → a.primed = true → a.cnt.rem = b.cnt.rem

/-- A relation that related states see the same through, and that every update of the machine respects. -/
structure Respected (R : State → State → Prop) : Prop where
  /-- What both machines read alike. -/
  params {a b : State} : R a b → a.params = b.params
  phase {a b : State} : R a b → a.phase = b.phase
  tvalid {a b : State} : R a b → a.tvalid = b.tvalid
  rst {a b : State} : R a b → a.ports.rst = b.ports.rst
  select {a b : State} : R a b → select a = select b
  reads {a b : State} : R a b → AgreeRead a b
  /-- The updates around a command. -/
  reset {a b : State} : R a b → R (resetCore a) (resetCore b)
  clear {a b : State} : R a b → a.phase.ready = true → R (acceptClear a) (acceptClear b)
  raise {a b : State} (k : ErrKind) (n sub e f : Nat) : R a b → R (raiseErr k n sub e f a) (raiseErr k n sub e f b)
  idle {a b : State} : R a b → R { a with phase := .idle } { b with phase := .idle }
  waits {a b : State} : R a b →
    R { a with phase := .tbuild, runPending := false } { b with phase := .tbuild, runPending := false }
  latch {a b : State} (report filt gran : Bool) (chsel : Half) : R a b → a.phase.ready = true →
    R (latchRun report filt gran chsel a) (latchRun report filt gran chsel b)
  run {a b : State} (report filt gran : Bool) (chsel : Half) : R a b → a.phase.ready = true →
    R (startRun (latchRun report filt gran chsel a)) (startRun (latchRun report filt gran chsel b))
  build {a b : State} : R a b → a.phase = .tbuild → a.tvalid = false → R (tbuildLoop a) (tbuildLoop b)
  /-- The updates of the header. -/
  read {a b : State} (pos : Nat) (eosf : Bool) (bytes : List Byte) : R a b → a.phase = .header ∨ a.phase = .data →
    R (readTo pos eosf bytes a) (readTo pos eosf bytes b)
  advance {a b : State} {next : Fin 10} : R a b → a.phase = .header → (7 ≤ next.val → 7 ≤ a.step.val) →
    R { a with step := next } { b with step := next }
  descriptor {a b : State} (d : Descriptor) : R a b → a.phase = .header → a.step.val < 7 →
    R { a with fmt := d } { b with fmt := d }
  geometry {a b : State} : R a b → a.phase = .header → a.fmt = b.fmt → R (deriveGeometry a) (deriveGeometry b)
  size {a b : State} (n : Word) : R a b → a.phase = .header →
    R { a with cnt := { a.cnt with dsize := n } } { b with cnt := { b.cnt with dsize := n } }
  enter {a b : State} : R a b → a.phase = .header → 7 ≤ a.step.val → a.cnt.dsize = b.cnt.dsize →
    R { a with phase := .data, step := 9, primed := false } { b with phase := .data, step := 9, primed := false }
  /-- The updates of the data phase. -/
  start {a b : State} : R a b → a.phase = .data → R (dataStart a) (dataStart b)
  note {a b : State} (q g : Nat) : R a b → a.phase = .data → a.primed = true →
    R (noteRead q g a) (noteRead q g b)
  last {a b : State} : R a b → a.phase = .data → a.primed = true → R (noteLast a) (noteLast b)
  take {a b : State} (r : List Byte) : R a b → a.phase = .data → a.primed = true → a.tvalid = true →
    R (bufferTaken r a) (bufferTaken r b)
  spend {a b : State} (g : Nat) : R a b → a.phase = .data → a.primed = true → R (spendRem g a) (spendRem g b)
  commit {a b : State} : R a b → a.phase = .data → a.primed = true → R (commitPlain a) (commitPlain b)
  extras {a b : State} : R a b → a.phase = .data → a.primed = true →
    R (reportExtras (commitPlain a)) (reportExtras (commitPlain b))

section
variable {R : State → State → Prop} {a b : State}

/-! ### Commands -/

/-- R223, side by side. -/
theorem Respected.execTbuild (h : Respected R) (hR : R a b) : OutcomeRel R (execTbuild a) (execTbuild b) := by
  unfold Machine.execTbuild
  rw [← h.phase hR, ← h.tvalid hR]
  split
  · next hready =>
    have hclear := h.clear hR hready
    split
    · exact .next (h.idle hclear)
    · exact .next (h.waits hclear)
  · exact .next hR

/-- R224, side by side. -/
theorem Respected.acceptRun (h : Respected R) (hR : R a b) (report filt gran : Bool) (chsel : Half) :
    OutcomeRel R (acceptRun report filt gran chsel a) (acceptRun report filt gran chsel b) := by
  unfold Machine.acceptRun checkSelectors
  rw [← h.phase hR]
  split
  · next hready =>
    have hclear := h.clear hR hready
    have hlatch := h.latch report filt gran chsel hclear hready
    rw [← h.params hlatch]
    split
    · exact .next (h.raise _ _ _ _ _ hlatch)
    · exact .next (h.run _ _ _ _ hclear hready)
  · exact .next hR

/-! ### The header -/

/-- R151, side by side. -/
theorem Respected.readHdr (h : Respected R) (hR : R a b) (hphase : a.phase = .header) {k n : Nat}
    {use : List Byte → State → Host.Outcome State Fault Refusal}
    (huse : ∀ r pos eosf bytes, OutcomeRel R (use r (readTo pos eosf bytes a)) (use r (readTo pos eosf bytes b))) :
    OutcomeRel R (readHdr k n a use) (readHdr k n b use) := by
  unfold Machine.readHdr
  rcases ((h.reads hR).stream (.inl hphase)).read n with ⟨ha, hb⟩ | ⟨r, pos, eosf, bytes, ha, hb⟩ <;>
    simp only [ha, hb]
  · exact .next hR
  · split
    · exact .next (h.raise _ _ _ _ _ (h.read pos eosf bytes hR (.inl hphase)))
    · exact huse r pos eosf bytes

/-- R141, side by side. -/
theorem Respected.constStep (h : Respected R) (hR : R a b) (hphase : a.phase = .header) (k : Nat) {next : Fin 10}
    (hnext : 7 ≤ next.val → 7 ≤ a.step.val) (e : Word) (kind : ErrKind) :
    OutcomeRel R (constStep k next e kind a) (constStep k next e kind b) := by
  refine h.readHdr hR hphase fun r pos eosf bytes => ?_
  have hread := h.read pos eosf bytes hR (.inl hphase)
  split
  · exact .next (h.advance hread hphase hnext)
  · exact .next (h.raise _ _ _ _ _ hread)

/-- R147, R148, side by side. -/
theorem Respected.checkFormat (h : Respected R) (hR : R a b) (hphase : a.phase = .header) (hfmt : a.fmt = b.fmt) :
    R (checkFormat a) (checkFormat b) := by
  have hmissing : missingChannels a = missingChannels b := by
    unfold missingChannels
    rw [(h.reads hR).mode (.inl hphase), h.params hR, hfmt]
  unfold Machine.checkFormat
  rw [← hfmt, ← hmissing]
  split
  · exact h.raise _ _ _ _ _ hR
  · split
    · exact h.raise _ _ _ _ _ hR
    · exact h.geometry hR hphase hfmt

/-- R150, side by side. -/
theorem Respected.checkDataSize (h : Respected R) (hR : R a b) (hphase : a.phase = .header) (hstep : 7 ≤ a.step.val)
    (hsize : a.cnt.dsize = b.cnt.dsize) : OutcomeRel R (checkDataSize a) (checkDataSize b) := by
  obtain ⟨hfmt, -, -⟩ := (h.reads hR).format (.inl ⟨hphase, hstep⟩)
  have henter := h.enter hR hphase hstep hsize
  rw [← hfmt] at henter
  unfold Machine.checkDataSize
  rw [← hsize, ← hfmt]
  split
  · exact .next henter
  · split
    · exact .fault _
    · split
      · exact .next (h.raise _ _ _ _ _ hR)
      · exact .next henter

/-- R140, side by side. -/
theorem Respected.exec_header (h : Respected R) (hR : R a b) (hphase : a.phase = .header) {i : Instr}
    (hsel : selectHeader a = .perform i) : OutcomeRel R (exec i a) (exec i b) := by
  have hmem := selectHeader_perform hsel
  simp only [List.mem_cons, Prod.mk.injEq, List.mem_nil_iff, or_false] at hmem
  rcases hmem with ⟨hs, rfl⟩ | ⟨hs, rfl⟩ | ⟨hs, rfl⟩ | ⟨hs, rfl⟩ | ⟨hs, rfl⟩ | ⟨hs, rfl⟩ | ⟨hs, rfl⟩ | ⟨hs, rfl⟩
  · exact h.constStep hR hphase _ (fun hseven => absurd hseven (by decide)) _ _
  · exact h.readHdr hR hphase fun _ pos eosf bytes =>
      .next (h.advance (h.read pos eosf bytes hR (.inl hphase)) hphase fun hseven => absurd hseven (by decide))
  · exact h.constStep hR hphase _ (fun hseven => absurd hseven (by decide)) _ _
  · exact h.constStep hR hphase _ (fun hseven => absurd hseven (by decide)) _ _
  · exact h.constStep hR hphase _ (fun hseven => absurd hseven (by decide)) _ _
  · have hstep : a.step.val < 7 := by rw [hs]; decide
    exact h.readHdr hR hphase fun r pos eosf bytes => .next (h.checkFormat
      (h.descriptor (descriptorOf r) (h.read pos eosf bytes hR (.inl hphase)) hphase hstep) hphase rfl)
  · exact h.constStep hR hphase _ (fun _ => by rw [hs]; decide) _ _
  · have hstep : 7 ≤ a.step.val := by rw [hs]; decide
    exact h.readHdr hR hphase fun r pos eosf bytes =>
      h.checkDataSize (h.size (le32 r 0) (h.read pos eosf bytes hR (.inl hphase)) hphase) hphase hstep rfl

/-! ### The data phase -/

/-- A buffer taken, side by side (R173, R174). -/
theorem Respected.takeBuffer (h : Respected R) (hR : R a b) (hphase : a.phase = .data) (hprimed : a.primed = true)
    (hvalid : a.tvalid = true) (h0 : a.fmt.ba.toNat ≠ 0) (hba : a.fmt.ba.toNat = a.bps.toNat * a.fmt.nch.toNat)
    {r : List Byte} (hgot : a.cnt.got = BitVec.ofNat 32 r.length) (hgot' : b.cnt.got = BitVec.ofNat 32 r.length)
    (hr : r.length ≤ a.bufsz.toNat) :
    takeBuffer r a = .next (bufferTaken r a) ∧ takeBuffer r b = .next (bufferTaken r b) ∧
      R (bufferTaken r a) (bufferTaken r b) := by
  obtain ⟨hfmt, hbps, hbufsz⟩ := (h.reads hR).format (.inr hphase)
  refine ⟨takeBuffer_of_got h0 hba hgot hr, takeBuffer_of_got ?_ ?_ hgot' ?_, h.take r hR hphase hprimed hvalid⟩
  · rwa [← hfmt]
  · rwa [← hfmt, ← hbps]
  · rwa [← hbufsz]

/-- R173, side by side. -/
theorem Respected.execRdbufKnown (h : Respected R) (hR : R a b) (hphase : a.phase = .data) (hprimed : a.primed = true)
    (hvalid : a.tvalid = true) (h0 : a.fmt.ba.toNat ≠ 0) (hba : a.fmt.ba.toNat = a.bps.toNat * a.fmt.nch.toNat) :
    OutcomeRel R (execRdbufKnown a) (execRdbufKnown b) := by
  obtain ⟨-, -, hbufsz⟩ := (h.reads hR).format (.inr hphase)
  have hreq : knownRequest a = knownRequest b := by
    rw [knownRequest, knownRequest, hbufsz, (h.reads hR).rem hphase hprimed]
  unfold Machine.execRdbufKnown
  rw [← hreq]
  rcases ((h.reads hR).stream (.inr hphase)).read (knownRequest a) with ⟨ha, hb⟩ | ⟨r, pos, eosf, bytes, ha, hb⟩ <;>
    simp only [ha, hb]
  · exact .next hR
  · have hnote := h.note (knownRequest a) r.length (h.read pos eosf bytes hR (.inr hphase)) hphase hprimed
    have hr : r.length ≤ a.bufsz.toNat := Nat.le_trans (streamRead_length ha) (knownRequest_le_bufsz a)
    split
    · exact .next (h.raise _ _ _ _ _ hnote)
    · obtain ⟨ha, hb, htake⟩ := h.takeBuffer hnote hphase hprimed hvalid h0 hba rfl rfl hr
      rw [ha, hb]
      exact .next (h.spend _ htake hphase hprimed)

/-- R174, side by side. -/
theorem Respected.execRdbufUnknown (h : Respected R) (hR : R a b) (hphase : a.phase = .data)
    (hprimed : a.primed = true) (hvalid : a.tvalid = true) (h0 : a.fmt.ba.toNat ≠ 0)
    (hba : a.fmt.ba.toNat = a.bps.toNat * a.fmt.nch.toNat) :
    OutcomeRel R (execRdbufUnknown a) (execRdbufUnknown b) := by
  obtain ⟨hfmt, -, hbufsz⟩ := (h.reads hR).format (.inr hphase)
  unfold Machine.execRdbufUnknown
  rw [← hbufsz, ← hfmt]
  rcases ((h.reads hR).stream (.inr hphase)).read a.bufsz.toNat with ⟨ha, hb⟩ | ⟨r, pos, eosf, bytes, ha, hb⟩ <;>
    simp only [ha, hb]
  · exact .next hR
  · have hnote := h.note a.bufsz.toNat r.length (h.read pos eosf bytes hR (.inr hphase)) hphase hprimed
    have hr : r.length ≤ a.bufsz.toNat := streamRead_length ha
    split
    · split
      · exact .next (h.raise _ _ _ _ _ (h.last hnote hphase hprimed))
      · obtain ⟨ha, hb, htake⟩ := h.takeBuffer (h.last hnote hphase hprimed) hphase hprimed hvalid h0 hba rfl rfl hr
        rw [ha, hb]
        exact .next htake
    · obtain ⟨ha, hb, htake⟩ := h.takeBuffer hnote hphase hprimed hvalid h0 hba rfl rfl hr
      rw [ha, hb]
      exact .next htake

/-- R230, side by side. -/
theorem Respected.execCommit (h : Respected R) (hR : R a b) (hphase : a.phase = .data) (hprimed : a.primed = true) :
    OutcomeRel R (execCommit a) (execCommit b) := by
  unfold Machine.execCommit
  rw [← (h.reads hR).mode (.inr hphase)]
  split
  · exact .next (h.extras hR hphase hprimed)
  · exact .next (h.commit hR hphase hprimed)

/-! ### The step -/

/-- Where a command is accepted, side by side (R221). -/
theorem Respected.step_of_ready (h : Respected R) (hR : R a b) (hrst : a.ports.rst = false)
    (hready : a.phase.ready = true) : OutcomeRel R (step a) (step b) := by
  have hrst' : b.ports.rst = false := (h.rst hR).symm.trans hrst
  have hsel := select_of_ready hready
  rcases selectCommand_cases a with hc | ⟨w, hc⟩ | hc | ⟨report, filt, gran, chsel, hc⟩ <;> rw [hc] at hsel <;>
    have hsel' := (h.select hR).symm.trans hsel
  · rw [step_of_wait hrst hsel, step_of_wait hrst' hsel']
    exact .next hR
  · rw [step_of_illegal hrst hsel, step_of_illegal hrst' hsel']
    exact .next (h.raise _ _ _ _ _ (h.clear hR hready))
  · rw [step_of_perform hrst hsel, step_of_perform hrst' hsel']
    exact h.execTbuild hR
  · rw [step_of_perform hrst hsel, step_of_perform hrst' hsel', exec_decodeRun, exec_decodeRun]
    exact h.acceptRun hR report filt gran chsel

/-- In the data phase, side by side (R170 to R175). -/
theorem Respected.step_of_data (h : Respected R) (hR : R a b) (hinv : StateInv a) (hrst : a.ports.rst = false)
    (hphase : a.phase = .data) : OutcomeRel R (step a) (step b) := by
  have hrst' : b.ports.rst = false := (h.rst hR).symm.trans hrst
  have hvalid := hinv.passTable (.inr hphase)
  obtain ⟨h0, hba, -⟩ := (hinv.dataFormat hphase).geometry hinv.params
  have hsel := select_of_data hphase
  rcases selectData_cases a with ⟨hlost, -⟩ | ⟨-, -, hd⟩ | ⟨-, hprimed, -, hd⟩ | ⟨-, hprimed, -, -, hd⟩ |
    ⟨-, hprimed, -, -, hd⟩
  · exact absurd (hinv.dataStep hphase) hlost
  all_goals
    rw [hd] at hsel
    have hsel' := (h.select hR).symm.trans hsel
  · rw [step_of_dataStart hrst hsel, step_of_dataStart hrst' hsel']
    exact .next (h.start hR hphase)
  · rw [step_of_perform hrst hsel, step_of_perform hrst' hsel']
    exact h.execCommit hR hphase hprimed
  · rw [step_of_perform hrst hsel, step_of_perform hrst' hsel']
    exact h.execRdbufUnknown hR hphase hprimed hvalid h0 hba
  · rw [step_of_perform hrst hsel, step_of_perform hrst' hsel']
    exact h.execRdbufKnown hR hphase hprimed hvalid h0 hba

/-- A relation that every update respects is one that every step from a state with the invariant respects. -/
theorem Respected.step (h : Respected R) (hR : R a b) (hinv : StateInv a) : OutcomeRel R (step a) (step b) := by
  cases hrst : a.ports.rst with
  | true =>
    rw [step_of_reset hrst, step_of_reset ((h.rst hR).symm.trans hrst)]
    exact .next (h.reset hR)
  | false =>
    have hrst' : b.ports.rst = false := (h.rst hR).symm.trans hrst
    cases hphase : a.phase with
    | idle | done | err => exact h.step_of_ready hR hrst (by rw [hphase]; rfl)
    | tbuild =>
      have hsel : Machine.select a = .perform .tbuildLoop := by
        rw [select_of_tbuild hphase, hinv.buildNeeded hphase, if_neg Bool.false_ne_true]
      rw [step_of_perform hrst hsel, step_of_perform hrst' ((h.select hR).symm.trans hsel)]
      exact .next (h.build hR hphase (hinv.buildNeeded hphase))
    | header =>
      obtain ⟨h1, h8⟩ := hinv.headerStep hphase
      obtain ⟨i, hi⟩ := selectHeader_of_step h1 h8
      have hsel := (select_of_header hphase).trans hi
      rw [step_of_perform hrst hsel, step_of_perform hrst' ((h.select hR).symm.trans hsel)]
      exact h.exec_header hR hphase hi
    | data => exact h.step_of_data hR hinv hrst hphase

end

end Sys2Proof.Machine

/-! The time input (R276): what it reaches is erased by `eraseTime`, which every update of the machine respects. -/

namespace Sys2Proof.Machine

/-- Two states that differ only in what the time input can reach. -/
def SameButTime (a b : State) : Prop := eraseTime a = eraseTime b

section
variable {a b : State}

/-- An update whose result, time erased, is that of the erased state. -/
theorem SameButTime.map {f : State → State} (hf : ∀ s, eraseTime (f (eraseTime s)) = eraseTime (f s))
    (h : SameButTime a b) : SameButTime (f a) (f b) :=
  (hf a).symm.trans ((congrArg (fun s => eraseTime (f s)) h).trans (hf b))

/-- A reading of the state that no erased field enters. -/
theorem SameButTime.congr {α : Type} (h : SameButTime a b) (f : State → α) (hf : ∀ s, f (eraseTime s) = f s) :
    f a = f b :=
  (hf a).symm.trans ((congrArg f h).trans (hf b))

/-- A sample of the time input is erased (R237). -/
theorem eraseTime_timeAdvance (s : State) : eraseTime (timeAdvance s) = eraseTime s := by
  obtain ⟨ts, d, heq⟩ := timeAdvance_frame s
  rw [heq]
  rfl

/-- R224: the latched state, its time sample erased. -/
theorem eraseTime_latchRun (report filt gran : Bool) (chsel : Half) (s : State) :
    eraseTime (latchRun report filt gran chsel s) =
      eraseTime { s with
        mode := { gran := gran, filt := filt, report := report, sel := chsel }
        res := { s.res with modeTag := modeTagOf report filt gran }
        pos := 0
        eosf := false } :=
  eraseTime_timeAdvance _

/-- R225: what follows the acceptance depends on `TVALID`, not on the time. -/
theorem SameButTime.startRun (h : SameButTime a b) : SameButTime (startRun a) (startRun b) := by
  refine h.map fun s => ?_
  unfold Machine.startRun
  rw [show (eraseTime s).tvalid = s.tvalid from rfl]
  split <;> rfl

/-- R122: the build depends on `TVALID`, not on the time. -/
theorem SameButTime.tbuildLoop (h : SameButTime a b) : SameButTime (tbuildLoop a) (tbuildLoop b) := by
  refine h.map fun s => ?_
  unfold Machine.tbuildLoop
  rw [show (eraseTime s).tvalid = s.tvalid from rfl]
  split <;> rfl

theorem SameButTime.select_eq (h : SameButTime a b) : select a = select b := h.congr select fun _ => rfl

/-- R31, R190: over a valid table an accumulation does not depend on the time. -/
theorem accAfter_eraseTime {s : State} (hvalid : s.tvalid = true) (rd : Nat → Byte) (got : Nat) :
    accAfter (eraseTime s) rd got = accAfter s rd got := by
  have htable : tableRead (eraseTime s) = tableRead s := by
    funext i
    simp [tableRead, eraseTime, hvalid]
  unfold accAfter
  rw [htable]
  rfl

theorem eraseTime_bufferTaken {s : State} (hvalid : s.tvalid = true) (r : List Byte) :
    eraseTime (bufferTaken r (eraseTime s)) = eraseTime (bufferTaken r s) := by
  rw [bufferTaken, bufferTaken, accAfter_eraseTime hvalid]
  rfl

/-- R232: the extras but `ELAPSED_MS`. -/
theorem eraseTime_reportExtras (s : State) :
    eraseTime (reportExtras (eraseTime s)) = eraseTime (reportExtras s) := by
  rw [reportExtras, eraseTime_timeAdvance, reportExtras, eraseTime_timeAdvance]
  rfl

end

/-- Every update respects the erasure of the time. -/
theorem respected_sameButTime : Respected SameButTime where
  params h := h.congr State.params fun _ => rfl
  phase h := h.congr State.phase fun _ => rfl
  tvalid h := h.congr State.tvalid fun _ => rfl
  rst h := h.congr (fun s => s.ports.rst) fun _ => rfl
  select h := h.select_eq
  reads h := {
    mode := fun _ => h.congr State.mode fun _ => rfl
    stream := fun _ => ⟨h.congr State.pos fun _ => rfl, h.congr State.eosf fun _ => rfl,
      h.congr (fun s => s.ports.inBytes) fun _ => rfl, h.congr (fun s => s.ports.inEnd) fun _ => rfl⟩
    format := fun _ => ⟨h.congr State.fmt fun _ => rfl, h.congr State.bps fun _ => rfl,
      h.congr State.bufsz fun _ => rfl⟩
    rem := fun _ _ => h.congr (fun s => s.cnt.rem) fun _ => rfl }
  reset h := h.map fun _ => rfl
  clear h _ := h.map fun _ => rfl
  raise _ _ _ _ _ h := h.map fun _ => rfl
  idle h := h.map (f := fun s => { s with phase := .idle }) fun _ => rfl
  waits h := h.map (f := fun s => { s with phase := .tbuild, runPending := false }) fun _ => rfl
  latch _ _ _ _ h _ := h.map fun s => by rw [eraseTime_latchRun, eraseTime_latchRun]; rfl
  run _ _ _ _ h _ := (h.map fun s => by rw [eraseTime_latchRun, eraseTime_latchRun]; rfl).startRun
  build h _ _ := h.tbuildLoop
  read _ _ _ h _ := h.map fun _ => rfl
  advance {_ _ next} h _ _ := h.map (f := fun s => { s with step := next }) fun _ => rfl
  descriptor d h _ _ := h.map (f := fun s => { s with fmt := d }) fun _ => rfl
  geometry h _ _ := h.map fun _ => rfl
  size n h _ := h.map (f := fun s => { s with cnt := { s.cnt with dsize := n } }) fun _ => rfl
  enter h _ _ _ := h.map (f := fun s => { s with phase := .data, step := 9, primed := false }) fun _ => rfl
  start h _ := h.map fun _ => rfl
  note _ _ h _ _ := h.map fun _ => rfl
  last h _ _ := h.map fun _ => rfl
  take {a b} r h _ _ hvalid := by
    have hvalid' : b.tvalid = true := (h.congr State.tvalid fun _ => rfl).symm.trans hvalid
    exact (eraseTime_bufferTaken hvalid r).symm.trans
      ((congrArg (fun s => eraseTime (bufferTaken r s)) h).trans (eraseTime_bufferTaken hvalid' r))
  spend _ h _ _ := h.map fun _ => rfl
  commit h _ _ := h.map fun _ => rfl
  extras h _ _ := (h.map fun _ => rfl : SameButTime (commitPlain _) (commitPlain _)).map eraseTime_reportExtras

/-- Settles O57: a step respects the erasure of the time. -/
theorem timeReachesElapsedAlone : Obligations.TimeReachesElapsedAlone :=
  fun _ _ _ hinv h hstep => (respected_sameButTime.step h hinv).exists_next hstep

end Sys2Proof.Machine

/-! What is dead (R51): agreement on what is live is a relation that every update of the machine respects. -/

namespace Sys2Proof.Machine

/-! ### Agreement phase by phase -/

/-- Agreement on what is live in every phase. -/
structure AgreeRest (a b : State) : Prop where
  params : a.params = b.params
  tvalid : a.tvalid = b.tvalid
  ports : a.ports = b.ports
  res : a.res = b.res
  draws : a.draws = b.draws
  table : a.tvalid = true → a.table = b.table

section
variable {a b : State}

theorem AgreeLive.rest (h : AgreeLive a b) : AgreeRest a b :=
  ⟨h.params, h.tvalid, h.ports, h.res, h.draws, h.table⟩

/-- In `IDLE`, `DONE` and `ERR` nothing more is live. -/
theorem AgreeLive.of_ready (h : AgreeRest a b) (hphase : a.phase = b.phase) (hready : a.phase.ready = true) :
    AgreeLive a b := by
  have hnot {p : Phase} (hp : a.phase = p) (hbusy : p.ready = false) : False := by
    rw [hp, hbusy] at hready
    exact absurd hready (by decide)
  exact {
    params := h.params, phase := hphase, tvalid := h.tvalid, ports := h.ports, res := h.res, draws := h.draws
    table := h.table
    pending := fun hp => (hnot hp rfl).elim, build := fun hp => (hnot hp rfl).elim
    headerStep := fun hp => (hnot hp rfl).elim, header := fun hp => (hnot hp rfl).elim
    headerFormat := fun hp => (hnot hp rfl).elim, dataStep := fun hp => (hnot hp rfl).elim
    data := fun hp => (hnot hp rfl).elim, dataFormat := fun hp => (hnot hp rfl).elim
    dataSize := fun hp => (hnot hp rfl).elim, dataPrimed := fun hp => (hnot hp rfl).elim
    dataLoop := fun hp => (hnot hp rfl).elim }

/-- In `TBUILD` a waiting `RUN` command is live too. -/
theorem AgreeLive.of_tbuild (h : AgreeRest a b) (ha : a.phase = .tbuild) (hb : b.phase = .tbuild)
    (hpending : a.runPending = b.runPending) (hpass : a.runPending = true → AgreePass a b) : AgreeLive a b := by
  have hnot {p : Phase} (hp : a.phase = p) (hne : p ≠ .tbuild) : False := hne (hp.symm.trans ha)
  exact {
    params := h.params, phase := ha.trans hb.symm, tvalid := h.tvalid, ports := h.ports, res := h.res
    draws := h.draws, table := h.table, pending := fun _ => hpending, build := fun _ => hpass
    headerStep := fun hp => (hnot hp nofun).elim, header := fun hp => (hnot hp nofun).elim
    headerFormat := fun hp => (hnot hp nofun).elim, dataStep := fun hp => (hnot hp nofun).elim
    data := fun hp => (hnot hp nofun).elim, dataFormat := fun hp => (hnot hp nofun).elim
    dataSize := fun hp => (hnot hp nofun).elim, dataPrimed := fun hp => (hnot hp nofun).elim
    dataLoop := fun hp => (hnot hp nofun).elim }

/-- In `HEADER` the step and the pass are live too, and from step 7 on the format. -/
theorem AgreeLive.of_header (h : AgreeRest a b) (ha : a.phase = .header) (hb : b.phase = .header)
    (hstep : a.step = b.step) (hpass : AgreePass a b) (hformat : 7 ≤ a.step.val → AgreeFormat a b) :
    AgreeLive a b := by
  have hnot {p : Phase} (hp : a.phase = p) (hne : p ≠ .header) : False := hne (hp.symm.trans ha)
  exact {
    params := h.params, phase := ha.trans hb.symm, tvalid := h.tvalid, ports := h.ports, res := h.res
    draws := h.draws, table := h.table
    pending := fun hp => (hnot hp nofun).elim, build := fun hp => (hnot hp nofun).elim
    headerStep := fun _ => hstep, header := fun _ => hpass, headerFormat := fun _ => hformat
    dataStep := fun hp => (hnot hp nofun).elim, data := fun hp => (hnot hp nofun).elim
    dataFormat := fun hp => (hnot hp nofun).elim, dataSize := fun hp => (hnot hp nofun).elim
    dataPrimed := fun hp => (hnot hp nofun).elim, dataLoop := fun hp => (hnot hp nofun).elim }

/-- In `DATA` the pass, the format and the registers of the read loop are live too. -/
theorem AgreeLive.of_data (h : AgreeRest a b) (ha : a.phase = .data) (hb : b.phase = .data)
    (hstep : a.step = b.step) (hpass : AgreePass a b) (hformat : AgreeFormat a b)
    (hsize : a.cnt.dsize = b.cnt.dsize) (hprimed : a.primed = b.primed) (hloop : a.primed = true → AgreeLoop a b) :
    AgreeLive a b := by
  have hnot {p : Phase} (hp : a.phase = p) (hne : p ≠ .data) : False := hne (hp.symm.trans ha)
  exact {
    params := h.params, phase := ha.trans hb.symm, tvalid := h.tvalid, ports := h.ports, res := h.res
    draws := h.draws, table := h.table
    pending := fun hp => (hnot hp nofun).elim, build := fun hp => (hnot hp nofun).elim
    headerStep := fun hp => (hnot hp nofun).elim, header := fun hp => (hnot hp nofun).elim
    headerFormat := fun hp => (hnot hp nofun).elim
    dataStep := fun _ => hstep, data := fun _ => hpass, dataFormat := fun _ => hformat, dataSize := fun _ => hsize
    dataPrimed := fun _ => hprimed, dataLoop := fun _ => hloop }

/-! ### What both machines read alike -/

/-- The selection reads live registers only (R24). -/
theorem AgreeLive.select_eq (h : AgreeLive a b) : select a = select b := by
  have hphase := h.phase
  cases ha : a.phase with
  | idle | done | err =>
    have hready : a.phase.ready = true := by rw [ha]; rfl
    rw [select_of_ready hready, select_of_ready (hphase ▸ hready)]
    unfold selectCommand
    rw [h.ports]
  | tbuild => rw [select_of_tbuild ha, select_of_tbuild (hphase.symm.trans ha), h.tvalid]
  | header =>
    rw [select_of_header ha, select_of_header (hphase.symm.trans ha)]
    unfold selectHeader
    rw [h.headerStep ha]
  | data =>
    rw [select_of_data ha, select_of_data (hphase.symm.trans ha)]
    unfold selectData loopDone
    rw [← h.dataStep ha, ← h.dataPrimed ha, ← h.dataSize ha]
    cases hprimed : a.primed with
    | false => rfl
    | true => rw [(h.dataLoop ha hprimed).last, (h.dataLoop ha hprimed).rem]

theorem AgreeLive.agreeRead (h : AgreeLive a b) : AgreeRead a b where
  mode hp := hp.elim (fun hp => (h.header hp).mode) fun hp => (h.data hp).mode
  stream hp := by
    obtain ⟨-, hpos, he, -⟩ := hp.elim h.header h.data
    exact ⟨hpos, he, by rw [h.ports], by rw [h.ports]⟩
  format hp := hp.elim (fun hp => h.headerFormat hp.1 hp.2) h.dataFormat
  rem hp hprimed := (h.dataLoop hp hprimed).rem

/-- A valid table is read alike (R30). -/
theorem AgreeLive.tableRead_eq (h : AgreeLive a b) (hvalid : a.tvalid = true) : tableRead a = tableRead b := by
  funext i
  rw [tableRead, tableRead, ← h.tvalid, if_pos hvalid, if_pos hvalid, h.table hvalid]

theorem AgreeLive.timeSample_eq (h : AgreeLive a b) : timeSample a = timeSample b := by
  unfold timeSample
  rw [h.ports, h.draws]

/-! ### The updates of a command -/

/-- R264: what a raise leaves depends on the mode tag and `NACC` alone. -/
theorem AgreeLive.raiseErr (h : AgreeLive a b) (k : ErrKind) (n sub e f : Nat) :
    AgreeLive (raiseErr k n sub e f a) (raiseErr k n sub e f b) := by
  refine .of_ready ⟨h.params, h.tvalid, h.ports, ?_, h.draws, h.table⟩ rfl rfl
  unfold Machine.raiseErr
  rw [h.params, h.res]

theorem AgreeLive.acceptClear (h : AgreeLive a b) (hready : a.phase.ready = true) :
    AgreeLive (acceptClear a) (acceptClear b) := by
  refine .of_ready ⟨h.params, h.tvalid, ?_, ?_, h.draws, h.table⟩ h.phase hready
  · rw [acceptClear_ports, acceptClear_ports, h.ports]
  · rw [acceptClear_res, acceptClear_res, h.params]

/-- Over the same ports a sample of the time input leaves the same (R237). -/
theorem timeAdvance_pair (hports : a.ports = b.ports) (hdraws : a.draws = b.draws) :
    ∃ p d, timeAdvance a = { a with ports := p, draws := d } ∧ timeAdvance b = { b with ports := p, draws := d } := by
  unfold timeAdvance
  rw [← hports]
  cases a.ports.timeIn with
  | nil => exact ⟨a.ports, a.draws + 1, rfl, by simp only [hports, hdraws]⟩
  | cons t ts => exact ⟨{ a.ports with timeIn := ts }, a.draws, rfl, by simp only [hdraws]⟩

/-- R51, R224: the latched registers are the command's. -/
theorem AgreeLive.latchRun (h : AgreeLive a b) (hready : a.phase.ready = true) (report filt gran : Bool)
    (chsel : Half) : AgreeLive (latchRun report filt gran chsel a) (latchRun report filt gran chsel b) ∧
      AgreePass (latchRun report filt gran chsel a) (latchRun report filt gran chsel b) := by
  have htime := h.timeSample_eq
  unfold Machine.latchRun
  obtain ⟨p, d, ha, hb⟩ := timeAdvance_pair
    (a := { a with
      mode := { gran := gran, filt := filt, report := report, sel := chsel }
      res := { a.res with modeTag := modeTagOf report filt gran }
      pos := 0, eosf := false, t0 := timeSample a })
    (b := { b with
      mode := { gran := gran, filt := filt, report := report, sel := chsel }
      res := { b.res with modeTag := modeTagOf report filt gran }
      pos := 0, eosf := false, t0 := timeSample b }) h.ports h.draws
  rw [ha, hb]
  exact ⟨.of_ready ⟨h.params, h.tvalid, rfl, by simp only [h.res], rfl, h.table⟩ h.phase hready,
    ⟨rfl, rfl, rfl, htime⟩⟩

/-- R225: what a latched pass goes on with. -/
theorem AgreeLive.startRun (h : AgreeLive a b) (hpass : AgreePass a b) : AgreeLive (startRun a) (startRun b) := by
  obtain ⟨hmode, hpos, he, ht0⟩ := hpass
  have hrest : AgreeRest (Machine.startRun a) (Machine.startRun b) :=
    ⟨by simpa using h.params, by simpa using h.tvalid, by simpa using h.ports, by simpa using h.res,
      by simpa using h.draws, by simpa using h.table⟩
  have hpass : AgreePass (Machine.startRun a) (Machine.startRun b) :=
    ⟨by simpa using hmode, by simpa using hpos, by simpa using he, by simpa using ht0⟩
  cases hvalid : a.tvalid with
  | true =>
    have hvalid' : b.tvalid = true := h.tvalid.symm.trans hvalid
    have hstep : (Machine.startRun a).step = 1 := by simp [hvalid]
    refine .of_header hrest (by simp [hvalid]) (by simp [hvalid']) (by simp [hvalid, hvalid']) hpass fun hseven => ?_
    rw [hstep] at hseven
    exact absurd hseven (by decide)
  | false =>
    have hvalid' : b.tvalid = false := h.tvalid.symm.trans hvalid
    exact .of_tbuild hrest (by simp [hvalid]) (by simp [hvalid']) (by simp [hvalid, hvalid']) fun _ => hpass

/-- R122: the build leaves the built table, and goes on with the waiting command. -/
theorem AgreeLive.tbuildLoop (h : AgreeLive a b) (hphase : a.phase = .tbuild) (hvalid : a.tvalid = false) :
    AgreeLive (tbuildLoop a) (tbuildLoop b) := by
  have hvalid' : b.tvalid = false := h.tvalid.symm.trans hvalid
  have hpending := h.pending hphase
  have hrest : AgreeRest (Machine.tbuildLoop a) (Machine.tbuildLoop b) :=
    ⟨by simpa using h.params, by simp, by simpa using h.ports, by simpa using h.res, by simpa using h.draws,
      by simp [hvalid, hvalid']⟩
  cases hrun : a.runPending with
  | false =>
    have hrun' : b.runPending = false := hpending.symm.trans hrun
    have hidle : (Machine.tbuildLoop a).phase = .idle := by simp [hvalid, hrun]
    exact .of_ready hrest (by simp [hvalid, hvalid', hrun, hrun']) (by rw [hidle]; rfl)
  | true =>
    have hrun' : b.runPending = true := hpending.symm.trans hrun
    have hstep : (Machine.tbuildLoop a).step = 1 := by simp [hvalid, hrun]
    obtain ⟨hmode, hpos, he, ht0⟩ := h.build hphase hrun
    refine .of_header hrest (by simp [hvalid, hrun]) (by simp [hvalid', hrun'])
      (by simp [hvalid, hvalid', hrun, hrun'])
      ⟨by simpa using hmode, by simpa using hpos, by simpa using he, by simpa using ht0⟩ fun hseven => ?_
    rw [hstep] at hseven
    exact absurd hseven (by decide)

/-! ### The updates of the header -/

/-- A read leaves alike what it writes (R62). -/
theorem AgreeLive.readTo (h : AgreeLive a b) (hphase : a.phase = .header ∨ a.phase = .data) (pos : Nat) (eosf : Bool)
    (bytes : List Byte) : AgreeLive (readTo pos eosf bytes a) (readTo pos eosf bytes b) := by
  have hrest : AgreeRest (Machine.readTo pos eosf bytes a) (Machine.readTo pos eosf bytes b) :=
    ⟨h.params, h.tvalid, by rw [Machine.readTo, Machine.readTo, h.ports], h.res, h.draws, h.table⟩
  rcases hphase with ha | ha
  · have hb := h.phase.symm.trans ha
    exact .of_header hrest ha hb (h.headerStep ha) { h.header ha with pos := rfl, eosf := rfl }
      fun hseven => { h.headerFormat ha hseven with }
  · have hb := h.phase.symm.trans ha
    exact .of_data hrest ha hb (h.dataStep ha) { h.data ha with pos := rfl, eosf := rfl } { h.dataFormat ha with }
      (h.dataSize ha) (h.dataPrimed ha) fun hprimed => { h.dataLoop ha hprimed with }

/-- An update of the header that leaves what no phase names, the phase and the latched pass. -/
theorem AgreeLive.of_headerUpdate {a' b' : State} (h : AgreeLive a b) (hphase : a.phase = .header)
    (hrest : AgreeRest a' b') (ha : a'.phase = a.phase) (hb : b'.phase = b.phase) (hstep : a'.step = b'.step)
    (hpass : AgreePass a b → AgreePass a' b') (hformat : 7 ≤ a'.step.val → AgreeFormat a' b') : AgreeLive a' b' :=
  .of_header hrest (ha.trans hphase) (hb.trans (h.phase.symm.trans hphase)) hstep (hpass (h.header hphase)) hformat

/-- R150: the data phase starts with the format of the header. -/
theorem AgreeLive.enter (h : AgreeLive a b) (hphase : a.phase = .header) (hstep : 7 ≤ a.step.val)
    (hsize : a.cnt.dsize = b.cnt.dsize) :
    AgreeLive { a with phase := .data, step := 9, primed := false }
      { b with phase := .data, step := 9, primed := false } :=
  .of_data ⟨h.params, h.tvalid, h.ports, h.res, h.draws, h.table⟩ rfl rfl rfl { h.header hphase with }
    { h.headerFormat hphase hstep with } hsize rfl fun hprimed => absurd hprimed Bool.false_ne_true

/-! ### The updates of the data phase -/

/-- An update of the data phase that leaves the phase, the latched pass, the format and `DSIZE`. -/
theorem AgreeLive.of_dataUpdate {a' b' : State} (h : AgreeLive a b) (hphase : a.phase = .data)
    (hrest : AgreeRest a' b') (ha : a'.phase = a.phase) (hb : b'.phase = b.phase) (hstep : a'.step = b'.step)
    (hpass : AgreePass a b → AgreePass a' b') (hformat : AgreeFormat a b → AgreeFormat a' b')
    (hsize : a'.cnt.dsize = b'.cnt.dsize) (hprimed : a'.primed = b'.primed) (hloop : AgreeLoop a' b') :
    AgreeLive a' b' :=
  .of_data hrest (ha.trans hphase) (hb.trans (h.phase.symm.trans hphase)) hstep (hpass (h.data hphase))
    (hformat (h.dataFormat hphase)) hsize hprimed fun _ => hloop

/-- R172: the start of the loop reads `DSIZE` and `NACC`. -/
theorem AgreeLive.dataStart (h : AgreeLive a b) (hphase : a.phase = .data) :
    AgreeLive (dataStart a) (dataStart b) :=
  h.of_dataUpdate hphase ⟨h.params, h.tvalid, h.ports, h.res, h.draws, h.table⟩ rfl rfl (h.dataStep hphase)
    (fun h => { h with }) (fun h => { h with }) (h.dataSize hphase) rfl
    ⟨by rw [dataStart_acc, dataStart_acc, h.params], rfl, h.dataSize hphase, rfl⟩

/-- R173, R203: the accumulation of a buffer reads live registers only. -/
theorem AgreeLive.accAfter_eq (h : AgreeLive a b) (hphase : a.phase = .data) (hprimed : a.primed = true)
    (hvalid : a.tvalid = true) (rd : Nat → Byte) (got : Nat) : accAfter a rd got = accAfter b rd got := by
  obtain ⟨hfmt, hbps, -⟩ := h.dataFormat hphase
  unfold accAfter
  rw [h.tableRead_eq hvalid, (h.data hphase).mode, hfmt, hbps, (h.dataLoop hphase hprimed).acc, h.params]

/-- An update of the accumulators and the counters of the loop. -/
theorem AgreeLive.of_loopUpdate (h : AgreeLive a b) (hphase : a.phase = .data) (hprimed : a.primed = true)
    {acc acc' : List Word} {c c' : Counters} {m m' : Memory} (hacc : acc = acc')
    (hsize : a.cnt.dsize = b.cnt.dsize → c.dsize = c'.dsize)
    (hloop : AgreeLoop a b → c.tot = c'.tot ∧ c.rem = c'.rem ∧ c.last = c'.last) :
    AgreeLive { a with acc := acc, cnt := c, buf := m } { b with acc := acc', cnt := c', buf := m' } := by
  obtain ⟨htot, hrem, hlast⟩ := hloop (h.dataLoop hphase hprimed)
  exact h.of_dataUpdate hphase ⟨h.params, h.tvalid, h.ports, h.res, h.draws, h.table⟩ rfl rfl (h.dataStep hphase)
    (fun h => { h with }) (fun h => { h with }) (hsize (h.dataSize hphase)) (h.dataPrimed hphase)
    ⟨hacc, htot, hrem, hlast⟩

/-- R230: the commit reads the accumulators and the mode latch. -/
theorem AgreeLive.commitPlain (h : AgreeLive a b) (hphase : a.phase = .data) (hprimed : a.primed = true) :
    AgreeLive (commitPlain a) (commitPlain b) := by
  refine .of_ready ⟨h.params, h.tvalid, h.ports, ?_, h.draws, h.table⟩ rfl rfl
  unfold Machine.commitPlain
  rw [h.params, (h.data hphase).mode, (h.dataLoop hphase hprimed).acc, h.res]

/-- R232: the extras read the descriptor, `TOT` and `T0`. -/
theorem AgreeLive.reportExtras (h : AgreeLive a b) (hphase : a.phase = .data) (hprimed : a.primed = true) :
    AgreeLive (reportExtras (Machine.commitPlain a)) (reportExtras (Machine.commitPlain b)) := by
  have hcommit := h.commitPlain hphase hprimed
  have htime := h.timeSample_eq
  obtain ⟨hfmt, -, -⟩ := h.dataFormat hphase
  have hres := hcommit.res
  rw [reportExtras_commitPlain_eq, reportExtras_commitPlain_eq, hres, hfmt, (h.dataLoop hphase hprimed).tot,
    (h.data hphase).t0, htime]
  obtain ⟨p, d, ha, hb⟩ := timeAdvance_pair h.ports h.draws
  rw [ha, hb]
  exact .of_ready ⟨h.params, h.tvalid, rfl, rfl, rfl, h.table⟩ rfl rfl

end

/-- Every update respects the agreement on what is live. -/
theorem respected_agreeLive : Respected AgreeLive where
  params h := h.params
  phase h := h.phase
  tvalid h := h.tvalid
  rst h := by rw [h.ports]
  select h := h.select_eq
  reads h := h.agreeRead
  reset {a b} h := by
    have heq : resetCore a = resetCore b := by
      unfold resetCore
      rw [h.params, h.ports, h.draws]
    exact .of_ready ⟨h.params, rfl, h.ports, congrArg State.res heq, congrArg State.draws heq, fun _ => rfl⟩ rfl rfl
  clear h hready := h.acceptClear hready
  raise k n sub e f h := h.raiseErr k n sub e f
  idle h := .of_ready ⟨h.params, h.tvalid, h.ports, h.res, h.draws, h.table⟩ rfl rfl
  waits h := .of_tbuild ⟨h.params, h.tvalid, h.ports, h.res, h.draws, h.table⟩ rfl rfl rfl
    fun hrun => absurd hrun Bool.false_ne_true
  latch report filt gran chsel h hready := (h.latchRun hready report filt gran chsel).1
  run report filt gran chsel h hready := by
    obtain ⟨hlatch, hpass⟩ := h.latchRun hready report filt gran chsel
    exact hlatch.startRun hpass
  build h hphase hvalid := h.tbuildLoop hphase hvalid
  read pos eosf bytes h hphase := h.readTo hphase pos eosf bytes
  advance h hphase hnext :=
    h.of_headerUpdate hphase ⟨h.params, h.tvalid, h.ports, h.res, h.draws, h.table⟩ rfl rfl rfl
      (fun h => { h with }) fun hseven => { h.headerFormat hphase (hnext hseven) with }
  descriptor d h hphase hstep :=
    h.of_headerUpdate hphase ⟨h.params, h.tvalid, h.ports, h.res, h.draws, h.table⟩ rfl rfl (h.headerStep hphase)
      (fun h => { h with }) fun hseven => absurd hseven (Nat.not_le_of_lt hstep)
  geometry h hphase hfmt :=
    h.of_headerUpdate hphase ⟨h.params, h.tvalid, h.ports, h.res, h.draws, h.table⟩ rfl rfl rfl
      (fun h => { h with }) fun _ => ⟨hfmt, by rw [deriveGeometry_bps, deriveGeometry_bps, hfmt],
        by rw [deriveGeometry_bufsz, deriveGeometry_bufsz, hfmt, h.params]⟩
  size n h hphase :=
    h.of_headerUpdate hphase ⟨h.params, h.tvalid, h.ports, h.res, h.draws, h.table⟩ rfl rfl (h.headerStep hphase)
      (fun h => { h with }) fun hseven => { h.headerFormat hphase hseven with }
  enter h hphase hstep hsize := h.enter hphase hstep hsize
  start h hphase := h.dataStart hphase
  note q g h hphase hprimed :=
    h.of_loopUpdate hphase hprimed (h.dataLoop hphase hprimed).acc id fun h => ⟨h.tot, h.rem, h.last⟩
  last h hphase hprimed :=
    h.of_loopUpdate hphase hprimed (h.dataLoop hphase hprimed).acc id fun h => ⟨h.tot, h.rem, rfl⟩
  take r h hphase hprimed hvalid :=
    h.of_loopUpdate hphase hprimed (h.accAfter_eq hphase hprimed hvalid _ _) id fun h =>
      ⟨congrArg (· + BitVec.ofNat 64 r.length) h.tot, h.rem, h.last⟩
  spend g h hphase hprimed :=
    h.of_loopUpdate hphase hprimed (h.dataLoop hphase hprimed).acc id fun h =>
      ⟨h.tot, congrArg (· - BitVec.ofNat 32 g) h.rem, h.last⟩
  commit h hphase hprimed := h.commitPlain hphase hprimed
  extras h hphase hprimed := h.reportExtras hphase hprimed

/-- Settles O56: a step respects the agreement on what is live. -/
theorem nothingDeadIsEverRead : Obligations.NothingDeadIsEverRead :=
  fun _ _ _ hinv _ h hstep => (respected_agreeLive.step h hinv).exists_next hstep

end Sys2Proof.Machine
